-- ==== Sys2Proof/Word.lean ====
section
/-! DEFINITION. The three word widths of the block: a byte of the bus and of MEM, a 16-bit address or code, a 32-bit host register. -/

namespace Sys2Proof

/-- A byte on the bus or in `MEM` (20_memory.md R60). -/
abbrev Byte := BitVec 8

/-- A 16-bit address operand or fixed-point code (R61, R103). -/
abbrev Half := BitVec 16

/-- A 32-bit host register, bus header, control word or binary32 pattern (R22, R97, R102, R105). -/
abbrev Word := BitVec 32

end Sys2Proof
end

