-- ==== Sys2Proof/Syntax.lean ====
section
/-! DEFINITION. The instructions, one constructor for each row of the opcode table, and the three encoded formats they are written in (30_encoding.md R90). -/

namespace Sys2Proof

/-- One constructor per row of the opcode table. A format H command carries both operand fields, also the ones it ignores
(R93), because CMD and CMD_ARG store them as written (10_state.md R24); a format B request carries the length field it ignores
(R97) and a format S word its INDEX (R102) for the same reason: no bit of an encoding is dropped. -/
inductive Instr where
  /-- ENCODE (R120): `arg` is a binary32 temperature, `addr` is ignored. -/
  | encodeTemp (addr : Half) (arg : Word)
  /-- DECODE (R121): `arg[15:0]` is a code; the rest is ignored. -/
  | decodeCode (addr : Half) (arg : Word)
  /-- LOG_DATA (R147): `addr` is an EEPROM address, `arg` a binary32 temperature. -/
  | logData (addr : Half) (arg : Word)
  /-- READ_DATA (R148): `addr` is an EEPROM address, `arg` is ignored. -/
  | readData (addr : Half) (arg : Word)
  /-- WAIT_COMPLETE (R149): both fields are ignored. -/
  | waitComplete (addr : Half) (arg : Word)
  /-- BUS_WRITE (R97): TXLEN is the length of `tx`; `rxlen` is ignored. -/
  | busWrite (dev : BitVec 7) (rxlen : Byte) (tx : List Byte)
  /-- BUS_READ (R97): `txlen` is ignored and no payload follows. -/
  | busRead (dev : BitVec 7) (txlen : Byte) (rxlen : Byte)
  /-- BUS_WRITEREAD (R97): TXLEN is the length of `tx`. -/
  | busWriteRead (dev : BitVec 7) (tx : List Byte) (rxlen : Byte)
  /-- SIM_RESET (R188): `index` is ignored. -/
  | simReset (index : Half)
  /-- SIM_PEEK (R191). -/
  | simPeek (index : Half)
  /-- SIM_GET_BUSY (R192): `index` is ignored. -/
  | simGetBusy (index : Half)
  /-- SIM_GET_COUNT (R193): `index` is ignored. -/
  | simGetCount (index : Half)
  deriving DecidableEq, Repr

/-- What arrives at the block or at the device, in one of the three encoded formats (R90). The format is known from the port
it arrives at: host registers, bus, or the simulator's control port. -/
inductive Packet where
  /-- Format H (R91): the word written to CMD_ARG, then the word written to CMD. -/
  | h (arg cmd : Word)
  /-- Format B (R97): the header, then the payload bytes in transmission order. -/
  | b (header : Word) (payload : List Byte)
  /-- Format S (R102): the simulator control word. -/
  | s (word : Word)
  deriving DecidableEq, Repr

end Sys2Proof
end

