-- ==== Sys2Proof/WellFormed.lean ====
section
/-! DEFINITION. Which terms of Instr have an encoding: every field has its width by its type, so the one check left is that a payload fits TXLEN (R97). -/

namespace Sys2Proof

/-- TXLEN is an 8-bit field: a write phase has 0 to 255 bytes (30_encoding.md R97). -/
def payloadFits (tx : List Byte) : Bool := decide (tx.length ≤ 255)

/-- Whether the instruction can be written in its format. -/
def Instr.wellFormed : Instr → Bool
  | .encodeTemp _ _ => true
  | .decodeCode _ _ => true
  | .logData _ _ => true
  | .readData _ _ => true
  | .waitComplete _ _ => true
  | .busWrite _ _ tx => payloadFits tx
  | .busRead _ _ _ => true
  | .busWriteRead _ tx _ => payloadFits tx
  | .simReset _ => true
  | .simPeek _ => true
  | .simGetBusy _ => true
  | .simGetCount _ => true

end Sys2Proof
end

