-- ==== Sys2Proof/Decode.lean ====
section
/-! DEFINITION. Bit fields and byte order, the decoder of the three formats (total, rejecting by name), the encoder, and the numbering of the opcode table. -/

namespace Sys2Proof

/-- Why a packet is none of the table's rows. -/
inductive DecodeError where
  /-- RSV is not 0: H (R94), B (R101) or S (R102). -/
  | reservedBits
  /-- Format H, OP 0x0 or 0x6 to 0xF (R94). -/
  | reservedOpcode
  /-- Format B, KIND 3 (R101). -/
  | reservedKind
  /-- Format S, SOP 0x0 or 0x5 to 0xF (R102). -/
  | reservedControl
  /-- Format B: the number of payload bytes is not the one the header calls for (R97). -/
  | payloadLength
  deriving DecidableEq, Repr

/-! Byte order (20_memory.md R63: big-endian). -/

/-- Bits 15:8. -/
def hiByte (v : Half) : Byte := v.extractLsb' 8 8

/-- Bits 7:0. -/
def loByte (v : Half) : Byte := v.extractLsb' 0 8

/-- `{hi, lo}` of two bytes (00_scope.md R16). -/
def joinBytes (hi lo : Byte) : Half := hi ++ lo

/-! Format H, 30_encoding.md R91. -/

/-- `CMD.OP`, bits 3:0. -/
def opField (cmd : Word) : BitVec 4 := cmd.extractLsb' 0 4

/-- `CMD.RSV`, bits 15:4; format S has its RSV in the same place (R102). -/
def rsvField (cmd : Word) : BitVec 12 := cmd.extractLsb' 4 12

/-- `CMD.ADDR`, bits 31:16; format S has INDEX in the same place (R102). -/
def addrField (cmd : Word) : Half := cmd.extractLsb' 16 16

/-- The word `{ADDR, RSV = 0, OP}` (R91), and `{INDEX, RSV = 0, SOP}` of format S (R102). -/
def commandWord (addr : Half) (op : BitVec 4) : Word := addr ++ (0#12 ++ op)

/-- `decodeH` (R95), with the opcode map of R92. -/
def decodeH (arg cmd : Word) : Except DecodeError Instr :=
  if rsvField cmd ≠ 0#12 then .error .reservedBits
  else if opField cmd = 1#4 then .ok (.encodeTemp (addrField cmd) arg)
  else if opField cmd = 2#4 then .ok (.decodeCode (addrField cmd) arg)
  else if opField cmd = 3#4 then .ok (.logData (addrField cmd) arg)
  else if opField cmd = 4#4 then .ok (.readData (addrField cmd) arg)
  else if opField cmd = 5#4 then .ok (.waitComplete (addrField cmd) arg)
  else .error .reservedOpcode

/-! Format B, 30_encoding.md R97. -/

/-- `Q.KIND`, bits 1:0. -/
def kindField (q : Word) : BitVec 2 := q.extractLsb' 0 2

/-- `Q.DEV`, bits 8:2. -/
def devField (q : Word) : BitVec 7 := q.extractLsb' 2 7

/-- `Q.RSV`, bits 15:9. -/
def busRsvField (q : Word) : BitVec 7 := q.extractLsb' 9 7

/-- `Q.TXLEN`, bits 23:16. -/
def txlenField (q : Word) : Byte := q.extractLsb' 16 8

/-- `Q.RXLEN`, bits 31:24. -/
def rxlenField (q : Word) : Byte := q.extractLsb' 24 8

/-- The header `{RXLEN, TXLEN, RSV = 0, DEV, KIND}`. -/
def busHeader (kind : BitVec 2) (dev : BitVec 7) (txlen rxlen : Byte) : Word :=
  rxlen ++ (txlen ++ (0#7 ++ (dev ++ kind)))

/-- The header's KIND or RSV is reserved (R101). -/
def headerReserved (q : Word) : Bool := decide (busRsvField q ≠ 0#7) || decide (kindField q = 3#2)

/-- The number of payload bytes that follow the header: none for READ, else TXLEN (R97). -/
def payloadBytes (q : Word) : Nat := if kindField q = 1#2 then 0 else (txlenField q).toNat

/-- A bus request (R97, R101). -/
def decodeB (q : Word) (payload : List Byte) : Except DecodeError Instr :=
  if busRsvField q ≠ 0#7 then .error .reservedBits
  else if kindField q = 3#2 then .error .reservedKind
  else if payload.length ≠ payloadBytes q then .error .payloadLength
  else if kindField q = 0#2 then .ok (.busWrite (devField q) (rxlenField q) payload)
  else if kindField q = 1#2 then .ok (.busRead (devField q) (txlenField q) (rxlenField q))
  else .ok (.busWriteRead (devField q) payload (rxlenField q))

/-! Format S, 30_encoding.md R102. -/

/-- A simulator control word (R102). -/
def decodeS (w : Word) : Except DecodeError Instr :=
  if rsvField w ≠ 0#12 then .error .reservedBits
  else if opField w = 1#4 then .ok (.simReset (addrField w))
  else if opField w = 2#4 then .ok (.simPeek (addrField w))
  else if opField w = 3#4 then .ok (.simGetBusy (addrField w))
  else if opField w = 4#4 then .ok (.simGetCount (addrField w))
  else .error .reservedControl

/-- The decoder: total on any words and any payload bytes. -/
def decode : Packet → Except DecodeError Instr
  | .h arg cmd => decodeH arg cmd
  | .b q payload => decodeB q payload
  | .s w => decodeS w

/-! The encoder, from the same tables (R91, R92, R97, R102). -/

/-- The words of a well-formed instruction. -/
def encode : Instr → Packet
  | .encodeTemp addr arg => .h arg (commandWord addr 1#4)
  | .decodeCode addr arg => .h arg (commandWord addr 2#4)
  | .logData addr arg => .h arg (commandWord addr 3#4)
  | .readData addr arg => .h arg (commandWord addr 4#4)
  | .waitComplete addr arg => .h arg (commandWord addr 5#4)
  | .busWrite dev rxlen tx => .b (busHeader 0#2 dev (BitVec.ofNat 8 tx.length) rxlen) tx
  | .busRead dev txlen rxlen => .b (busHeader 1#2 dev txlen rxlen) []
  | .busWriteRead dev tx rxlen => .b (busHeader 2#2 dev (BitVec.ofNat 8 tx.length) rxlen) tx
  | .simReset index => .s (commandWord index 1#4)
  | .simPeek index => .s (commandWord index 2#4)
  | .simGetBusy index => .s (commandWord index 3#4)
  | .simGetCount index => .s (commandWord index 4#4)

/-! The opcode table's numbering of bits. -/

/-- The word names one of the four control operations of format S (R102). -/
def namesControl (w : Word) : Bool :=
  decide (rsvField w = 0#12) && decide (1 ≤ (opField w).toNat) && decide ((opField w).toNat ≤ 4)

/-- The payload bytes of a bus request whose bits, header first, are the number `w`. -/
def payloadOfBits (w : Nat) : List Byte :=
  (List.range (payloadBytes (BitVec.ofNat 32 w))).map fun i => BitVec.ofNat 8 (w >>> (32 + 8 * i))

/-- The packet whose bits are `w`. A 64-bit row is format H, `W = {CMD_ARG, CMD}` (R91). A 32-bit row is format S or B, and
the table's number alone does not say which port it arrives at: a word that names a control operation is read as format S,
any other as format B (log 3, DESIGN CHOICE). -/
def packetOfBits (nbits w : Nat) : Packet :=
  if nbits = 64 then .h (BitVec.ofNat 32 (w >>> 32)) (BitVec.ofNat 32 w)
  else if namesControl (BitVec.ofNat 32 w) then .s (BitVec.ofNat 32 w)
  else .b (BitVec.ofNat 32 w) (payloadOfBits w)

/-- The instruction the decoder reads from an instruction whose bits are `w`, numbered as the opcode table numbers them. -/
def decodeTableWord (nbits w : Nat) : Option Instr := (decode (packetOfBits nbits w)).toOption

end Sys2Proof
end

