-- ==== Sys2Proof/Config.lean ====
section
/-! DEFINITION. The implementation parameters of 00_scope.md section 4: the fixed numbers, and the OPEN and free values as opaque constants without a body. -/

namespace Sys2Proof.Config

/-- `CAPACITY`, written `C` in the rules (R7). -/
abbrev capacity : Nat := 32768

/-- `PAGE_SIZE` (R8). -/
abbrev pageSize : Nat := 64

/-- `SAMPLE_BYTES` (R9). -/
abbrev sampleBytes : Nat := 2

/-- `MAX_ATTEMPTS` (R10). -/
abbrev maxAttempts : Nat := 100

/-- `SCALE` (R13): code units in one degree. -/
abbrev scale : Nat := 16

/-- `SENTINEL`, the binary32 pattern of -999.0 (R14). -/
abbrev sentinel : Word := 0xC479C000#32

/-- `ERASED_FILL` (R15): what every byte of the simulator's memory holds initially. -/
abbrev erasedFill : Byte := 0xFF#8

/-- The default of `BUSY_THRESHOLD` (R12, 92_eei_decisions.md D20). -/
abbrev defaultThreshold : Nat := 50

/-- `RETRY_WAIT` (R11, D15): a named parameter whose value no rule reads, since the model has no time. -/
opaque retryWait : Nat

/-- `DEV_ADDR` (R15, D16), OPEN: the value the reset state carries. -/
opaque devAddr : BitVec 7

/-- `ENC_NONFINITE` (R15, D3, 93_implementation_defined.md I1), OPEN: the code of a NaN or an infinity. -/
opaque encNonfinite : Word → Half

/-- FREE VALUE (R86, I6): the status of a real device's answer number `n`. -/
opaque drawStatus : Nat → BitVec 2

/-- FREE VALUE (R86, I6): byte `i` of a real device's answer number `n`. -/
opaque drawByte : Nat → Nat → Byte

end Sys2Proof.Config
end

