-- ==== Sys2Proof/Machine/State.lean ====
section
/-! DEFINITION. The state of the block and of the agents around it, as plain data; the reasons a step can stop; the state after reset. -/

namespace Sys2Proof.Machine

/-- The four bus status codes (30_encoding.md R100). -/
inductive BusStatus where
  | ok
  | generalError
  | notAcknowledged
  | timeout
  deriving DecidableEq, Repr

/-- The causes `STATUS.ERR` can hold (10_state.md R26); its values 5 to 7 are never produced. -/
inductive ErrCause where
  | noError
  | range
  | page
  | bus
  | illegal
  deriving DecidableEq, Repr

/-- `STATUS` (10_state.md R25). Its reserved bits hold nothing: `Status.word` reads them as 0. -/
structure Status where
  busy  : Bool
  done  : Bool
  ok    : Bool
  ovr   : Bool
  pexh  : Bool
  err   : ErrCause
  busst : BusStatus
  deriving DecidableEq, Repr

/-- The host registers (R22). `raw` is `RAW.CODE` and `polls` is `POLLS.COUNT`; the upper bits of both registers read 0
(R28, R29). -/
structure HostRegs where
  cmdArg : Word
  cmd    : Word
  status : Status
  result : Word
  raw    : Half
  polls  : Byte
  deriving DecidableEq, Repr

/-- Where the poll loop of R150 stands (R157): the first probe, a later probe, the delay after a failed probe, or the
`finish` of the waiting command, after an Ok probe or after the budget was exhausted. -/
inductive Poll where
  | first
  | again
  | delay
  | done
  | exhausted
  deriving DecidableEq, Repr

/-- `SEQ` (10_state.md R21): the next atomic step of R157. The labels a command starts at are those `decodeH` gives at
acceptance (R140). -/
inductive Seq where
  /-- No command runs. -/
  | idle
  /-- `finish` of ENCODE (R120). -/
  | encodeTemp
  /-- `finish` of DECODE (R121). -/
  | decodeCode
  /-- `finish` of an ILLEGAL command (R151). -/
  | illegal
  /-- LOG_DATA: the checks, then their `finish` or the data write (R147 steps 1 to 4). -/
  | logData
  /-- LOG_DATA: `finish` after a data write that was not Ok. -/
  | logFail
  /-- LOG_DATA: the wait of step 5 and the `finish` of step 6. -/
  | logPoll (p : Poll)
  /-- READ_DATA: the check, then its `finish` or the read-back (R148 steps 1 and 2). -/
  | readData
  /-- READ_DATA: `finish` after a read-back that was not Ok. -/
  | readFail
  /-- READ_DATA: `finish` of step 4. -/
  | readDone
  /-- WAIT_COMPLETE: the wait and its `finish` (R149). -/
  | waitPoll (p : Poll)
  deriving DecidableEq, Repr

/-- `TX[0..3]` (R30). -/
structure TxBuffer where
  b0 : Byte
  b1 : Byte
  b2 : Byte
  b3 : Byte
  deriving DecidableEq, Repr

/-- `RX[0..1]` (R30). -/
structure RxBuffer where
  b0 : Byte
  b1 : Byte
  deriving DecidableEq, Repr

/-- The sequencer's internal state (R30), not visible to the host. -/
structure Sequencer where
  seq   : Seq
  lOp   : BitVec 4
  lAddr : Half
  lArg  : Word
  att   : Nat
  tx    : TxBuffer
  rx    : RxBuffer
  deriving DecidableEq, Repr

/-- A byte memory: the addresses that hold another byte than `Config.erasedFill`, strictly rising. -/
abbrev Memory := List Host.Cell

/-- The device simulator (R34). -/
structure Simulator where
  mem   : Memory
  busyf : Bool
  bcnt  : BitVec 16
  ptr   : BitVec 16
  deriving DecidableEq, Repr

/-- The device agent on the bus (00_scope.md R6): the simulator, a real EEPROM (20_memory.md R86), or a device that never
answers a transaction (93_implementation_defined.md I17). -/
inductive DeviceKind where
  | simulator
  | real
  | silent
  deriving DecidableEq, Repr

/-- The parameters a claim ranges over (R38): no step changes them. -/
structure Params where
  /-- `BUSY_THRESHOLD`, `T` (R12); its legal range is 1 to 65535. -/
  threshold : Nat
  /-- `DEV_ADDR` (R15). -/
  devAddr   : BitVec 7
  device    : DeviceKind
  deriving DecidableEq, Repr

/-- The kinds of bus request (R97). -/
inductive BusKind where
  | write
  | read
  | writeRead
  deriving DecidableEq, Repr

/-- A bus request (R97): `tx` has TXLEN bytes; a WRITE has `rxlen` 0 and a READ has no `tx`. -/
structure BusRequest where
  kind  : BusKind
  dev   : BitVec 7
  tx    : List Byte
  rxlen : Nat
  deriving DecidableEq, Repr

/-- A bus response (R99): its status, and its data bytes, which only an Ok read phase has. -/
structure BusResponse where
  status : BusStatus
  data   : List Byte
  deriving DecidableEq, Repr

/-- One bus transaction: the request and the status it was answered with. -/
structure Transaction where
  request : BusRequest
  status  : BusStatus
  deriving DecidableEq, Repr

/-- An answer to a simulator control word (R102): `SERR` and `SVAL`. -/
structure ControlAnswer where
  serr : Bool
  sval : Word
  deriving DecidableEq, Repr

/-- An event at the block or at the device. Each is one atomic step of its agent (20_memory.md R79, R83); the order of the
list in State is the order in which they happen (log 2). -/
inductive Input where
  /-- A packet at its port: a whole host command (log 1), a testbench bus request, or a simulator control word. -/
  | packet (p : Packet)
  /-- The host writes `bytes` bytes at `offset` of the register window. -/
  | hostWrite (bytes offset : Nat) (value : Word)
  /-- The host reads `bytes` bytes at `offset` of the register window. -/
  | hostRead (bytes offset : Nat)
  /-- The sequencer takes its next step (R157). -/
  | sequencer
  /-- Reset of the block (R250). -/
  | blockReset
  /-- Power-up of the block and of the simulator (R253). -/
  | powerUp
  deriving DecidableEq, Repr

/-- The agents around the block, as plain data. None of these is a register of the hardware. -/
structure Outside where
  /-- The events still to happen, the next one first (log 2). -/
  inputs  : List Input
  /-- The next answers of a real device, as far as they are fixed beforehand; after them come free values (log 7). -/
  oracle  : List BusResponse
  /-- How many answers a real device has given: the counter of the free values (log 7). -/
  draws   : Nat
  /-- The transactions of the last accepted command, oldest first (log 11). -/
  traffic : List Transaction
  /-- What the last host read returned (log 10). -/
  hostOut : Word
  /-- The answer to the last testbench bus request; none where the device did not answer (log 10). -/
  busOut  : Option BusResponse
  /-- The answer to the last control word (log 10). -/
  ctlOut  : ControlAnswer
  deriving DecidableEq, Repr

/-- The machine. -/
structure State where
  params : Params
  host   : HostRegs
  seqr   : Sequencer
  sim    : Simulator
  env    : Outside
  deriving DecidableEq, Repr

/-- Why the machine stops. The block itself has no traps (60_exceptions.md R220): no instruction's meaning faults. -/
inductive Fault where
  /-- A host access at byte offset 0x20 or more: there is no such register (20_memory.md R60). Raised by a host access event.
  Safe: the machine stops where the spec gives the block no access at all. -/
  | noSuchRegister (offset : Nat)
  deriving DecidableEq, Repr

/-- What the machine declines to give a meaning. -/
inductive Refusal where
  /-- An instruction without a meaning, by its mnemonic. Raised by no arm of `exec` now. Safe. -/
  | notModelled (mnemonic : String)
  /-- A host access that is no aligned 32-bit access: "The model refuses any other access" (20_memory.md R82). Raised by a
  host access event. Safe. -/
  | notAnAlignedWord (bytes offset : Nat)
  /-- A format B event whose payload is not the bytes its header calls for is no bus request (30_encoding.md R97). Raised by
  such an event. Safe. -/
  | payloadMismatch
  deriving DecidableEq, Repr

/-- `STATUS` after reset, 0x00000000 (R25). -/
def Status.cleared : Status :=
  { busy := false, done := false, ok := false, ovr := false, pexh := false, err := .noError, busst := .ok }

/-- The host registers after reset (R250). -/
def HostRegs.cleared : HostRegs :=
  { cmdArg := 0#32, cmd := 0#32, status := Status.cleared, result := 0#32, raw := 0#16, polls := 0#8 }

/-- The sequencer after reset (R250). -/
def Sequencer.cleared : Sequencer :=
  { seq := .idle, lOp := 0#4, lAddr := 0#16, lArg := 0#32, att := 0, tx := ⟨0#8, 0#8, 0#8, 0#8⟩, rx := ⟨0#8, 0#8⟩ }

/-- The simulator's initial state (R34, R253): every byte 0xFF, idle. -/
def Simulator.initial : Simulator := { mem := [], busyf := false, bcnt := 0#16, ptr := 0#16 }

/-- The state right after power-up (R250, R253), with the default `T` of R12, an open `DEV_ADDR`, the simulator on the bus
and no event pending (log 4, log 5). -/
def State.reset : State :=
  { params := { threshold := Config.defaultThreshold, devAddr := Config.devAddr, device := .simulator }
    host := HostRegs.cleared
    seqr := Sequencer.cleared
    sim := Simulator.initial
    env := { inputs := [], oracle := [], draws := 0, traffic := [], hostOut := 0#32, busOut := none, ctlOut := ⟨false, 0#32⟩ } }

end Sys2Proof.Machine
end

