-- ==== Sys2Proof/Machine/Flags.lean ====
section
/-! DEFINITION. The status codes and `STATUS` as the host reads it (10_state.md R25, R26, 30_encoding.md R100). -/

namespace Sys2Proof.Machine

/-- The value of a bus status (R100). -/
def BusStatus.code : BusStatus → BitVec 2
  | .ok => 0#2
  | .generalError => 1#2
  | .notAcknowledged => 2#2
  | .timeout => 3#2

/-- The bus status with a given value (R100). -/
def BusStatus.ofCode (v : BitVec 2) : BusStatus :=
  if v = 0#2 then .ok
  else if v = 1#2 then .generalError
  else if v = 2#2 then .notAcknowledged
  else .timeout

/-- The value of an error cause (R26). -/
def ErrCause.code : ErrCause → BitVec 3
  | .noError => 0#3
  | .range => 1#3
  | .page => 2#3
  | .bus => 3#3
  | .illegal => 4#3

/-- `STATUS` as a 32-bit register (R25): bits 7:5, 11 and 31:14 read 0. -/
def Status.word (f : Status) : Word :=
  0#18 ++ (f.busst.code ++ (0#1 ++ (f.err.code ++ (0#3 ++ (BitVec.ofBool f.pexh ++ (BitVec.ofBool f.ovr ++
    (BitVec.ofBool f.ok ++ (BitVec.ofBool f.done ++ BitVec.ofBool f.busy))))))))

/-- `STATUS` right after a command is accepted (R140). -/
def Status.accepted : Status :=
  { busy := true, done := false, ok := false, ovr := false, pexh := false, err := .noError, busst := .ok }

/-- `STATUS` after `finish` (R141): `OVR`, `PEXH` and `BUSST` keep their values. -/
def Status.finished (f : Status) (ok : Bool) (err : ErrCause) : Status :=
  { f with ok := ok, err := err, done := true, busy := false }

/-- The response word `P` of a bus response (R99): bits 31:2 read 0. -/
def BusResponse.word (r : BusResponse) : Word := 0#30 ++ r.status.code

end Sys2Proof.Machine
end

