-- ==== Sys2Proof/Machine/Ops.lean ====
section
/-! DEFINITION. The shared operations: byte memory, command acceptance and completion, register writes, the answers latched for the host and the testbench, reset. -/

namespace Sys2Proof.Machine

/-! Byte memory. What an unlisted address reads as is `Config.erasedFill` (R15, R34). -/

/-- The byte at an address. -/
def Memory.read : Memory → Nat → Byte
  | [], _ => Config.erasedFill
  | (a, b) :: rest, x => if x = a then b else Memory.read rest x

/-- Stores a byte; storing what an unlisted address reads as removes the entry. -/
def Memory.write : Memory → Nat → Byte → Memory
  | [], x, v => if v = Config.erasedFill then [] else [(x, v)]
  | (a, b) :: rest, x, v =>
    if x < a then (if v = Config.erasedFill then (a, b) :: rest else (x, v) :: (a, b) :: rest)
    else if x = a then (if v = Config.erasedFill then rest else (x, v) :: rest)
    else (a, b) :: Memory.write rest x v

/-- `MemWrite(a, n, bytes)` (00_scope.md R17). -/
def Memory.writeBytes (m : Memory) (a : Nat) : List Byte → Memory
  | [] => m
  | v :: rest => Memory.writeBytes (m.write a v) (a + 1) rest

/-- `MemRead(a, n)` (R17). -/
def Memory.readBytes (m : Memory) (a n : Nat) : List Byte := (List.range n).map fun i => m.read (a + i)

/-- The canonical form: addresses strictly rising, no entry equal to what an unlisted address reads as. -/
abbrev Memory.wf (m : Memory) : Prop :=
  m.Pairwise (fun c d => c.1 < d.1) ∧ ∀ c ∈ m, c.2 ≠ Config.erasedFill

/-- Every listed address is one of the `C` bytes (R34). -/
abbrev Memory.inCapacity (m : Memory) : Prop := ∀ c ∈ m, c.1 < Config.capacity

/-! The sequencer. -/

/-- `SEQ <- l`. -/
def goto (l : Seq) (s : State) : State := { s with seqr := { s.seqr with seq := l } }

/-- `finish` (R141): the one way every command ends, in success or error. An error finish is the block's only form of taking
an exception: it writes exactly these registers and goes to no vector (60_exceptions.md R228), and there is no return (R229). -/
def finish (ok : Bool) (err : ErrCause) (result : Word) (raw : Half) (s : State) : State :=
  { s with
    host := { s.host with status := s.host.status.finished ok err, result := result, raw := raw }
    seqr := { s.seqr with seq := .idle } }

/-- Where an instruction's algorithm starts (R140: `SEQ <- decodeH(...)`). Only format H words are ever decoded there. -/
def startOf : Except DecodeError Instr → Seq
  | .ok (.encodeTemp _ _) => .encodeTemp
  | .ok (.decodeCode _ _) => .decodeCode
  | .ok (.logData _ _) => .logData
  | .ok (.readData _ _) => .readData
  | .ok (.waitComplete _ _) => .waitPoll .first
  | .ok (.busWrite _ _ _) => .illegal
  | .ok (.busRead _ _ _) => .illegal
  | .ok (.busWriteRead _ _ _) => .illegal
  | .ok (.simReset _) => .illegal
  | .ok (.simPeek _) => .illegal
  | .ok (.simGetBusy _) => .illegal
  | .ok (.simGetCount _) => .illegal
  | .error _ => .illegal

/-- Acceptance of a command word `v` written to CMD while no command runs (R140). -/
def accept (v : Word) (s : State) : State :=
  { s with
    host := { s.host with cmd := v, status := Status.accepted, polls := 0#8 }
    seqr := { s.seqr with
      lOp := opField v, lAddr := addrField v, lArg := s.host.cmdArg, seq := startOf (decodeH s.host.cmdArg v) }
    env := { s.env with traffic := [] } }

/-- A CMD write while a command runs: dropped, with `OVR` set (R140). -/
def dropCommand (s : State) : State :=
  { s with host := { s.host with status := { s.host.status with ovr := true } } }

/-- A host write of CMD (R140). -/
def writeCmd (v : Word) (s : State) : State := if s.host.status.busy then dropCommand s else accept v s

/-- A host write of CMD_ARG (R23): at any time. -/
def writeCmdArg (v : Word) (s : State) : State := { s with host := { s.host with cmdArg := v } }

/-- `STATUS.PEXH <- 1` (R150). -/
def setExhausted (s : State) : State :=
  { s with host := { s.host with status := { s.host.status with pexh := true } } }

/-- The start of an attempt of the poll loop (R150): `ATT`, and one more probe counted in `POLLS.COUNT`. -/
def countProbe (att : Nat) (s : State) : State :=
  { s with host := { s.host with polls := s.host.polls + 1#8 }, seqr := { s.seqr with att := att } }

/-- `TX <- b` (R147 step 3). -/
def loadTx (b : TxBuffer) (s : State) : State := { s with seqr := { s.seqr with tx := b } }

/-- `Delay(RETRY_WAIT)` (00_scope.md R17): a pause that changes no state. -/
def delay (_wait : Nat) (s : State) : State := s

/-- `RX[0 .. n-1] <- data` (R144). -/
def RxBuffer.store (rx : RxBuffer) (n : Nat) (data : List Byte) : RxBuffer :=
  { b0 := if 0 < n then data.getD 0 rx.b0 else rx.b0
    b1 := if 1 < n then data.getD 1 rx.b1 else rx.b1 }

/-- What `xfer` does with a response (R144): `BUSST`, and `RX` when it is Ok and has a read phase. -/
def recordTransfer (q : BusRequest) (r : BusResponse) (s : State) : State :=
  { s with
    host := { s.host with status := { s.host.status with busst := r.status } }
    seqr := { s.seqr with rx := if r.status = .ok then s.seqr.rx.store q.rxlen r.data else s.seqr.rx }
    env := { s.env with traffic := s.env.traffic ++ [⟨q, r.status⟩] } }

/-! The agents around the block. -/

/-- The pending events become `es`. -/
def withInputs (es : List Input) (s : State) : State := { s with env := { s.env with inputs := es } }

/-- What a host read returned. -/
def answerHost (v : Word) (s : State) : State := { s with env := { s.env with hostOut := v } }

/-- What a testbench bus request was answered with, if it was. -/
def answerBus (r : Option BusResponse) (s : State) : State := { s with env := { s.env with busOut := r } }

/-- What a control word was answered with. -/
def answerControl (serr : Bool) (sval : Word) (s : State) : State :=
  { s with env := { s.env with ctlOut := ⟨serr, sval⟩ } }

/-- The simulator's state becomes `m`. -/
def withSim (m : Simulator) (s : State) : State := { s with sim := m }

/-- Reset of the block (70_reset_and_hazards.md R250): every host register and every internal element; a running command is
abandoned; the device is left alone (R251). -/
def blockReset (s : State) : State :=
  { s with host := HostRegs.cleared, seqr := Sequencer.cleared, env := { s.env with traffic := [] } }

/-- Power-up (R253): the block in its reset state, the simulator in its initial state. -/
def powerUp (s : State) : State := withSim Simulator.initial (blockReset s)

end Sys2Proof.Machine
end

