-- ==== Sys2Proof/Machine/Operands.lean ====
section
/-! DEFINITION. The operand forms of the commands, the payloads they are laid out in, and the host register window. -/

namespace Sys2Proof.Machine

/-! Latched operands (30_encoding.md R93, R96). -/

/-- `ADDR`: an unsigned 16-bit EEPROM address. -/
def addrOperand (s : State) : Half := s.seqr.lAddr

/-- `ARG[31:0]`: a binary32 temperature. -/
def tempOperand (s : State) : Word := s.seqr.lArg

/-- `ARG[15:0]`: a 16-bit code; `ARG[31:16]` is ignored. -/
def codeOperand (s : State) : Half := s.seqr.lArg.extractLsb' 0 16

/-! Payloads (20_memory.md R64, R65). -/

/-- The 4-byte payload of a logged sample: address, then code, both big-endian (R64). -/
def logPayload (a c : Half) : TxBuffer := ⟨hiByte a, loByte a, hiByte c, loByte c⟩

/-- The bytes of `TX` in transmission order. -/
def TxBuffer.bytes (t : TxBuffer) : List Byte := [t.b0, t.b1, t.b2, t.b3]

/-- The 2-byte address phase of a read-back (R65). -/
def readPayload (a : Half) : List Byte := [hiByte a, loByte a]

/-- The received sample `{RX[0], RX[1]}` (R148 step 4). -/
def rxCode (rx : RxBuffer) : Half := joinBytes rx.b0 rx.b1

/-- The memory address of a write phase, `{TX[0], TX[1]}` (R181): big-endian, no bit masked. -/
def writeAddress (tx : List Byte) : Nat := (joinBytes (tx.getD 0 0#8) (tx.getD 1 0#8)).toNat

/-- The data bytes of a write phase, `TX[2 .. TXLEN-1]` (R181). -/
def writeData (tx : List Byte) : List Byte := tx.drop 2

/-! The host register window (10_state.md R22). -/

/-- The size of the window in bytes (R22). -/
def windowBytes : Nat := 32

/-- The value a word read at an offset returns (R22 to R29); a reserved offset reads 0. -/
def readRegister (r : HostRegs) (offset : Nat) : Word :=
  if offset = 0x00 then r.cmdArg
  else if offset = 0x04 then r.cmd
  else if offset = 0x08 then r.status.word
  else if offset = 0x0C then r.result
  else if offset = 0x10 then 0#16 ++ r.raw
  else if offset = 0x14 then 0#24 ++ r.polls
  else 0#32

/-- A word write at an offset (R22): CMD_ARG and CMD take it; the read-only registers and the reserved offsets ignore it. -/
def writeRegister (offset : Nat) (v : Word) (s : State) : State :=
  if offset = 0x00 then writeCmdArg v s
  else if offset = 0x04 then writeCmd v s
  else s

end Sys2Proof.Machine
end

