-- ==== Sys2Proof/Machine/Simulator.lean ====
section
/-! DEFINITION. The EEPROM busy-cycle simulator as pure functions (42_device_simulator.md; 10_state.md R35): a request and a state give a response and the next state. `T` is the busy threshold. -/

namespace Sys2Proof.Machine

/-- An answer without data bytes (R99). -/
def plainAnswer (st : BusStatus) : BusResponse := ⟨st, []⟩

/-- A request that meets a busy simulator (R182): counted, and not acknowledged whether or not it ends the busy period. -/
def busyStep (T : Nat) (m : Simulator) : BusResponse × Simulator :=
  (plainAnswer .notAcknowledged,
    if T ≤ m.bcnt.toNat + 1 then { m with busyf := false, bcnt := 0#16 } else { m with bcnt := m.bcnt + 1#16 })

/-- A probe while idle (R183). -/
def idleProbe (m : Simulator) : BusResponse × Simulator := (plainAnswer .ok, m)

/-- A one-byte write while idle (R184): an incomplete address, `PTR` unchanged. -/
def idleOneByte (m : Simulator) : BusResponse × Simulator := (plainAnswer .ok, m)

/-- An address-only write while idle (R185): `PTR <- ma`, no bounds check. -/
def idleAddress (tx : List Byte) (m : Simulator) : BusResponse × Simulator :=
  (plainAnswer .ok, { m with ptr := BitVec.ofNat 16 (writeAddress tx) })

/-- A data write while idle (R186): bounds, a linear copy, and a new busy period. -/
def dataWrite (tx : List Byte) (m : Simulator) : BusResponse × Simulator :=
  if Config.capacity < writeAddress tx + (writeData tx).length then (plainAnswer .generalError, m)
  else (plainAnswer .ok,
    { m with mem := m.mem.writeBytes (writeAddress tx) (writeData tx), busyf := true, bcnt := 0#16 })

/-- A `WRITE` (R182 to R186). -/
def handleWrite (T : Nat) (tx : List Byte) (m : Simulator) : BusResponse × Simulator :=
  if m.busyf then busyStep T m
  else if tx.length = 0 then idleProbe m
  else if tx.length = 1 then idleOneByte m
  else if tx.length = 2 then idleAddress tx m
  else dataWrite tx m

/-- A read while idle (R187): from `PTR`, which it does not change. -/
def idleRead (n : Nat) (m : Simulator) : BusResponse × Simulator :=
  if Config.capacity < m.ptr.toNat + n then (plainAnswer .generalError, m)
  else (⟨.ok, m.mem.readBytes m.ptr.toNat n⟩, m)

/-- A `READ` (R182, R187). -/
def handleRead (T n : Nat) (m : Simulator) : BusResponse × Simulator :=
  if m.busyf then busyStep T m else idleRead n m

/-- A `WRITEREAD` (R189): the write phase, then the read phase if the first was Ok. -/
def handleWriteRead (T : Nat) (tx : List Byte) (n : Nat) (m : Simulator) : BusResponse × Simulator :=
  if (handleWrite T tx m).1.status = .ok then handleRead T n (handleWrite T tx m).2 else handleWrite T tx m

/-- `onBus` (R180). The device address is not decoded. -/
def onBus (T : Nat) (q : BusRequest) (m : Simulator) : BusResponse × Simulator :=
  match q.kind with
  | .write => handleWrite T q.tx m
  | .read => handleRead T q.rxlen m
  | .writeRead => handleWriteRead T q.tx q.rxlen m

/-- A reserved request (R190): GeneralError, no change, also while busy. -/
def reservedRequest (m : Simulator) : BusResponse × Simulator := (plainAnswer .generalError, m)

end Sys2Proof.Machine
end

