-- ==== Sys2Proof/Machine/Bus.lean ====
section
/-! DEFINITION. The device agent on the bus (00_scope.md R6) and the two ways a transaction reaches it: the sequencer's `xfer` (41_log_driver.md R144) and a testbench's request (42_device_simulator.md R180). -/

namespace Sys2Proof.Machine

/-- The data bytes of answer number `n` of a real device: the fixed ones, then free values. -/
def drawnData (fixed : List Byte) (n rxlen : Nat) : List Byte :=
  (List.range rxlen).map fun i => fixed.getD i (Config.drawByte n i)

/-- An answer of the shape R99 gives: exactly `rxlen` data bytes when it is Ok, else none. -/
def shapedAnswer (st : BusStatus) (fixed : List Byte) (n rxlen : Nat) : BusResponse :=
  ⟨st, if st = .ok then drawnData fixed n rxlen else []⟩

/-- A real device's answer (20_memory.md R86): any of the four statuses and any data. The next answer of `oracle` if one is
left, else FREE VALUES (log 7). -/
def realAnswer (rxlen : Nat) (s : State) : BusResponse × State :=
  match s.env.oracle with
  | a :: rest =>
    (shapedAnswer a.status a.data s.env.draws rxlen,
      { s with env := { s.env with oracle := rest, draws := s.env.draws + 1 } })
  | [] =>
    (shapedAnswer (BusStatus.ofCode (Config.drawStatus s.env.draws)) [] s.env.draws rxlen,
      { s with env := { s.env with draws := s.env.draws + 1 } })

/-- The number of data bytes a request asks for: a WRITE has no read phase (R97). -/
def askedBytes (q : BusRequest) : Nat :=
  match q.kind with
  | .write => 0
  | .read => q.rxlen
  | .writeRead => q.rxlen

/-- `Bus(req)` (00_scope.md R17, 20_memory.md R70): one atomic step of the device agent. None: the device does not answer
(93_implementation_defined.md I17). -/
def deviceAnswer (q : BusRequest) (s : State) : Option (BusResponse × State) :=
  match s.params.device with
  | .simulator =>
    some ((onBus s.params.threshold q s.sim).1, withSim (onBus s.params.threshold q s.sim).2 s)
  | .real => some (realAnswer (askedBytes q) s)
  | .silent => none

/-- `xfer` (R144), always addressed to `DEV_ADDR` (R78). None: the sequencer waits for an answer (I17). -/
def xfer (kind : BusKind) (tx : List Byte) (rxlen : Nat) (s : State) : Option (BusResponse × State) :=
  match deviceAnswer ⟨kind, s.params.devAddr, tx, rxlen⟩ s with
  | none => none
  | some (r, s1) => some (r, recordTransfer ⟨kind, s.params.devAddr, tx, rxlen⟩ r s1)

/-- A testbench's own request (R180): the answer is latched for the testbench; no register of the block takes part. -/
def busRequest (q : BusRequest) (s : State) : State :=
  match deviceAnswer q s with
  | none => answerBus none s
  | some (r, s1) => answerBus (some r) s1

/-- The data bytes a reserved header asks for (R97, R99). -/
def askedByHeader (header : Word) : Nat :=
  if kindField header = 1#2 ∨ kindField header = 2#2 then (rxlenField header).toNat else 0

/-- A reserved request (R190, 93_implementation_defined.md I14): the simulator answers GeneralError and changes nothing; a real
device's answer is any value. -/
def reservedBusRequest (header : Word) (s : State) : State :=
  match s.params.device with
  | .simulator => answerBus (some (reservedRequest s.sim).1) (withSim (reservedRequest s.sim).2 s)
  | .real => answerBus (some (realAnswer (askedByHeader header) s).1) (realAnswer (askedByHeader header) s).2
  | .silent => answerBus none s

end Sys2Proof.Machine
end

