-- ==== Sys2Proof/Machine/Codec.lean ====
section
/-! DEFINITION. The fixed-point codec (40_codec.md), and the finishing step of ENCODE and of DECODE. -/

namespace Sys2Proof.Machine

/-! A binary32 pattern (30_encoding.md R105). -/

/-- `f[31]`. -/
def signOf (f : Word) : Bool := f.getLsbD 31

/-- `f[30:23]`. -/
def expOf (f : Word) : Nat := (f.extractLsb' 23 8).toNat

/-- `f[22:0]`. -/
def fracOf (f : Word) : Nat := (f.extractLsb' 0 23).toNat

/-- The pattern is a NaN or an infinity: `exp = 255`. -/
def nonfinite (f : Word) : Bool := decide (expOf f = 255)

/-- The integer significand: `frac` of a zero or a subnormal, `2^23 + frac` of a normal. -/
def significand (f : Word) : Nat := if expOf f = 0 then fracOf f else 2 ^ 23 + fracOf f

/-- The power of two the significand is scaled by is `2^(scaleExp f - 150)`, whether the pattern is subnormal or normal. -/
def scaleExp (f : Word) : Nat := if expOf f = 0 then 1 else expOf f

/-- `real(f)` (00_scope.md R16, R105), for a finite pattern. -/
def real (f : Word) : ℚ :=
  (if signOf f then -1 else 1) * (significand f : ℚ) * (2 : ℚ) ^ ((scaleExp f : ℤ) - 150)

/-- `trunc(x)`: round towards zero (R16). -/
def trunc (q : ℚ) : ℤ := if 0 ≤ q then ⌊q⌋ else ⌈q⌉

/-- `trunc(|real(f)| * 16)`, exactly, in whole numbers: 16 is `2^4`, and 146 is 150 - 4. -/
def magnitude16 (f : Word) : Nat :=
  if 146 ≤ scaleExp f then significand f * 2 ^ (scaleExp f - 146) else significand f / 2 ^ (146 - scaleExp f)

/-- `trunc(real(f) * 16)` as an integer. -/
def scaledTrunc (f : Word) : Int := if signOf f then -(magnitude16 f : Int) else (magnitude16 f : Int)

/-- `enc` (R120): the exact product truncated toward zero, modulo 65536; a NaN or an infinity gives `ENC_NONFINITE`. -/
def enc (f : Word) : Half := if nonfinite f then Config.encNonfinite f else BitVec.ofInt 16 (scaledTrunc f)

/-- `|s16(c)|`. -/
def codeMagnitude (c : Half) : Nat := c.toInt.natAbs

/-- The binary32 pattern of `m / 16` for `m` from 1 to 32768: exponent `log2 m - 4`, the bits of `m` below its leading one
at the top of the fraction. -/
def sixteenths (m : Nat) : Nat := (m.log2 + 123) * 2 ^ 23 + (m - 2 ^ m.log2) * 2 ^ (23 - m.log2)

/-- `dec` (R121): the binary32 pattern of `s16(c) / 16`, exactly; 0 gives +0.0. -/
def dec (c : Half) : Word :=
  if codeMagnitude c = 0 then 0#32
  else BitVec.ofNat 32 ((if c.msb then 2 ^ 31 else 0) + sixteenths (codeMagnitude c))

/-- `sext_32` of a code (R120). -/
def sextCode (c : Half) : Word := c.signExtend 32

/-- ENCODE after acceptance (R120). -/
def encodeStep (s : State) : State := finish true .noError (sextCode (enc (tempOperand s))) (enc (tempOperand s)) s

/-- DECODE after acceptance (R121). -/
def decodeStep (s : State) : State := finish true .noError (dec (codeOperand s)) (codeOperand s) s

end Sys2Proof.Machine
end

