-- ==== Sys2Proof/Machine/Driver.lean ====
section
/-! DEFINITION. The sequencer (41_log_driver.md): the safety checks, and the atomic steps of LOG_DATA, READ_DATA, WAIT_COMPLETE and an ILLEGAL command (R157). -/

namespace Sys2Proof.Machine

/-! Safety checks, on unbounded integers. -/

/-- `capOk(a)` (R142). -/
def capOk (a : Half) : Bool := decide (a.toNat + Config.sampleBytes ≤ Config.capacity)

/-- `pageOf(x)` (00_scope.md R19). -/
def pageOf (x : Nat) : Nat := x / Config.pageSize

/-- `pageOk(a)` (R143): the page of `a` against the page of the byte after the slot, with the exemption `a + 2 >= C`
(90_conflicts.md C2 to C4). -/
def pageOk (a : Half) : Bool :=
  decide (pageOf a.toNat = pageOf (a.toNat + Config.sampleBytes)) || decide (Config.capacity ≤ a.toNat + Config.sampleBytes)

/-- `readOk(a)` (R146). -/
def readOk (a : Half) : Bool := decide (a.toNat < Config.capacity - 1)

/-! The poll loop (R150), whose two users hand it their own labels. -/

/-- One attempt: `ATT`, `POLLS.COUNT`, and a zero-length probe. Without an answer the step is not taken (I17). -/
def probeStep (label : Poll → Seq) (att : Nat) (s : State) : State :=
  match xfer .write [] 0 (countProbe att s) with
  | none => s
  | some (r, s1) => goto (label (if r.status = .ok then .done else .delay)) s1

/-- The delay after a failed probe, the last one's too (92_eei_decisions.md D15). -/
def delayStep (label : Poll → Seq) (s : State) : State :=
  goto (label (if s.seqr.att < Config.maxAttempts then .again else .exhausted)) (delay Config.retryWait s)

/-- A step of WAIT and of the `finish` that follows it. The exhausted budget is recorded in the step of that `finish`: it is
local computation before it (R157, log 9). -/
def pollStep (label : Poll → Seq) (ending : State → State) (p : Poll) (s : State) : State :=
  match p with
  | .first => probeStep label 1 s
  | .again => probeStep label (s.seqr.att + 1) s
  | .delay => delayStep label s
  | .done => ending s
  | .exhausted => ending (setExhausted s)

/-! LOG_DATA (R147). -/

/-- The data write of step 4, with `TX` loaded (R64). -/
def dataWriteStep (s : State) : State :=
  match xfer .write (logPayload (addrOperand s) (enc (tempOperand s))).bytes 0
      (loadTx (logPayload (addrOperand s) (enc (tempOperand s))) s) with
  | none => s
  | some (r, s1) => goto (if r.status = .ok then .logPoll .first else .logFail) s1

/-- Steps 1 to 4: the checks before any bus traffic, then the data write. -/
def logDataStep (s : State) : State :=
  if capOk (addrOperand s) = false then finish false .range 0#32 0#16 s
  else if pageOk (addrOperand s) = false then finish false .page 0#32 0#16 s
  else dataWriteStep s

/-- `finish(0, BUS, 0, c)`. -/
def logFailStep (s : State) : State := finish false .bus 0#32 (enc (tempOperand s)) s

/-- Step 6, `finish(1, NONE, 1, c)`, whatever the wait observed (R153). -/
def logEnding (s : State) : State := finish true .noError 1#32 (enc (tempOperand s)) s

/-! READ_DATA (R148). -/

/-- Steps 1 and 2. -/
def readDataStep (s : State) : State :=
  if readOk (addrOperand s) = false then finish false .range Config.sentinel 0#16 s
  else
    match xfer .writeRead (readPayload (addrOperand s)) 2 s with
    | none => s
    | some (r, s1) => goto (if r.status = .ok then .readDone else .readFail) s1

/-- Step 3, the sentinel. -/
def readFailStep (s : State) : State := finish false .bus Config.sentinel 0#16 s

/-- Step 4. -/
def readDoneStep (s : State) : State := finish true .noError (dec (rxCode s.seqr.rx)) (rxCode s.seqr.rx) s

/-! WAIT_COMPLETE (R149) and ILLEGAL (R151). -/

/-- `finish(1, NONE, 0, 0x0000)`. -/
def waitEnding (s : State) : State := finish true .noError 0#32 0#16 s

/-- `finish(0, ILLEGAL, 0, 0x0000)`: no bus traffic. -/
def illegalStep (s : State) : State := finish false .illegal 0#32 0#16 s

/-- The sequencer's next atomic step (R157); without a command it does nothing (R254). -/
def seqStep (s : State) : State :=
  match s.seqr.seq with
  | .idle => s
  | .encodeTemp => encodeStep s
  | .decodeCode => decodeStep s
  | .illegal => illegalStep s
  | .logData => logDataStep s
  | .logFail => logFailStep s
  | .logPoll p => pollStep .logPoll logEnding p s
  | .readData => readDataStep s
  | .readFail => readFailStep s
  | .readDone => readDoneStep s
  | .waitPoll p => pollStep .waitPoll waitEnding p s

/-- Up to `n` steps of the sequencer with no other agent's step between them, until no command runs. -/
def runSeq : Nat → State → State
  | 0, s => s
  | n + 1, s => if s.seqr.seq = .idle then s else runSeq n (seqStep s)

/-- The longest command: one data write, 100 probes, 100 delays, one `finish` (R156). -/
def longestCommand : Nat := 2 * Config.maxAttempts + 2

/-- A command issued as its two host writes (R91: CMD_ARG, then CMD), and, if it was accepted, run to its `finish` with no
other agent's step in between (log 1). If a command is running already, the CMD write is dropped (R140). -/
def runCommand (arg cmd : Word) (s : State) : State :=
  if s.host.status.busy then writeCmd cmd (writeCmdArg arg s)
  else runSeq longestCommand (writeCmd cmd (writeCmdArg arg s))

end Sys2Proof.Machine
end

