-- ==== Sys2Proof/Machine/Commands.lean ====
section
/-! DEFINITION. The host commands, one meaning each: ENCODE, DECODE, LOG_DATA, READ_DATA, WAIT_COMPLETE; and what an undecodable command word does (R151). What each computes is its step in Codec.lean or Driver.lean; here it is issued and run to its `finish`. -/

namespace Sys2Proof.Machine

/-- ENCODE (R120): `encodeStep` after acceptance. -/
def execEncodeTemp (addr : Half) (arg : Word) (s : State) : Host.Outcome State Fault Refusal :=
  .next (runCommand arg (commandWord addr 1#4) s)

/-- DECODE (R121): `decodeStep` after acceptance. -/
def execDecodeCode (addr : Half) (arg : Word) (s : State) : Host.Outcome State Fault Refusal :=
  .next (runCommand arg (commandWord addr 2#4) s)

/-- LOG_DATA (R147): `logDataStep`, then `logFailStep` or the poll loop and `logEnding`. -/
def execLogData (addr : Half) (arg : Word) (s : State) : Host.Outcome State Fault Refusal :=
  .next (runCommand arg (commandWord addr 3#4) s)

/-- READ_DATA (R148): `readDataStep`, then `readFailStep` or `readDoneStep`. -/
def execReadData (addr : Half) (arg : Word) (s : State) : Host.Outcome State Fault Refusal :=
  .next (runCommand arg (commandWord addr 4#4) s)

/-- WAIT_COMPLETE (R149): the poll loop and `waitEnding`. -/
def execWaitComplete (addr : Half) (arg : Word) (s : State) : Host.Outcome State Fault Refusal :=
  .next (runCommand arg (commandWord addr 5#4) s)

/-- A command word that is none of the five (R94, R151): accepted like any other, then `finish` with ILLEGAL. -/
def execIllegal (arg cmd : Word) (s : State) : Host.Outcome State Fault Refusal :=
  .next (runCommand arg cmd s)

end Sys2Proof.Machine
end

