-- ==== Sys2Proof/Machine/Control.lean ====
section
/-! DEFINITION. The simulator control words, one meaning each: SIM_RESET, SIM_PEEK, SIM_GET_BUSY, SIM_GET_COUNT (42_device_simulator.md R188 to R194). -/

namespace Sys2Proof.Machine

/-- SIM_RESET (R188): the simulator's initial state; `SERR = 0`, `SVAL = 0`. -/
def execSimReset (_index : Half) (s : State) : Host.Outcome State Fault Refusal :=
  .next (answerControl false 0#32 (withSim Simulator.initial s))

/-- The byte SIM_PEEK reads, where there is one (R191). -/
def peek (m : Simulator) (index : Half) : ControlAnswer :=
  if index.toNat < Config.capacity then ⟨false, (m.mem.read index.toNat).setWidth 32⟩ else ⟨true, 0#32⟩

/-- SIM_PEEK (R191): no side effect on the simulator. -/
def execSimPeek (index : Half) (s : State) : Host.Outcome State Fault Refusal :=
  .next (answerControl (peek s.sim index).serr (peek s.sim index).sval s)

/-- SIM_GET_BUSY (R192). -/
def execSimGetBusy (_index : Half) (s : State) : Host.Outcome State Fault Refusal :=
  .next (answerControl false ((BitVec.ofBool s.sim.busyf).setWidth 32) s)

/-- SIM_GET_COUNT (R193). -/
def execSimGetCount (_index : Half) (s : State) : Host.Outcome State Fault Refusal :=
  .next (answerControl false (s.sim.bcnt.setWidth 32) s)

/-- A reserved control word (R194). -/
def reservedControlWord (s : State) : State := answerControl true 0#32 s

end Sys2Proof.Machine
end

