-- ==== Sys2Proof/Machine/Requests.lean ====
section
/-! DEFINITION. The bus requests of a testbench, one meaning each: BUS_WRITE, BUS_READ, BUS_WRITEREAD (30_encoding.md R97, 42_device_simulator.md R180 to R190). -/

namespace Sys2Proof.Machine

/-- BUS_WRITE (R182 to R186): RXLEN is ignored and taken as 0. -/
def execBusWrite (dev : BitVec 7) (_rxlen : Byte) (tx : List Byte) (s : State) : Host.Outcome State Fault Refusal :=
  .next (busRequest ⟨.write, dev, tx, 0⟩ s)

/-- BUS_READ (R182, R187): TXLEN is ignored and no payload follows. -/
def execBusRead (dev : BitVec 7) (_txlen rxlen : Byte) (s : State) : Host.Outcome State Fault Refusal :=
  .next (busRequest ⟨.read, dev, [], rxlen.toNat⟩ s)

/-- BUS_WRITEREAD (R189). -/
def execBusWriteRead (dev : BitVec 7) (tx : List Byte) (rxlen : Byte) (s : State) : Host.Outcome State Fault Refusal :=
  .next (busRequest ⟨.writeRead, dev, tx, rxlen.toNat⟩ s)

end Sys2Proof.Machine
end

