-- ==== Sys2Proof/Machine/Dispatch.lean ====
section
/-! DEFINITION. The dispatch of an instruction to its meaning. -/

namespace Sys2Proof.Machine

def exec (i : Instr) (s : State) : Host.Outcome State Fault Refusal :=
  match i with
  -- 40_codec.md
  | .encodeTemp addr arg => Sys2Proof.Machine.execEncodeTemp addr arg s
  | .decodeCode addr arg => Sys2Proof.Machine.execDecodeCode addr arg s
  -- 41_log_driver.md
  | .logData addr arg => Sys2Proof.Machine.execLogData addr arg s
  | .readData addr arg => Sys2Proof.Machine.execReadData addr arg s
  | .waitComplete addr arg => Sys2Proof.Machine.execWaitComplete addr arg s
  -- 42_device_simulator.md, bus requests
  | .busWrite dev rxlen tx => Sys2Proof.Machine.execBusWrite dev rxlen tx s
  | .busRead dev txlen rxlen => Sys2Proof.Machine.execBusRead dev txlen rxlen s
  | .busWriteRead dev tx rxlen => Sys2Proof.Machine.execBusWriteRead dev tx rxlen s
  -- 42_device_simulator.md, control words
  | .simReset index => Sys2Proof.Machine.execSimReset index s
  | .simPeek index => Sys2Proof.Machine.execSimPeek index s
  | .simGetBusy index => Sys2Proof.Machine.execSimGetBusy index s
  | .simGetCount index => Sys2Proof.Machine.execSimGetCount index s

end Sys2Proof.Machine
end

