-- ==== Sys2Proof/Machine/HostWindow.lean ====
section
/-! DEFINITION. A host access to the register window (20_memory.md R82, R83): one atomic step. -/

namespace Sys2Proof.Machine

/-- An access of `bytes` bytes at `offset` is an aligned 32-bit access (R82). -/
def alignedWord (bytes offset : Nat) : Bool := decide (bytes = 4) && decide (offset % 4 = 0)

/-- The access reaches no register at all, is refused, or is the given step. -/
def hostAccess (bytes offset : Nat) (answer : State) : Host.Outcome State Fault Refusal :=
  if windowBytes ≤ offset then .fault (.noSuchRegister offset)
  else if alignedWord bytes offset then .next answer
  else .refused (.notAnAlignedWord bytes offset)

/-- A host write. -/
def hostWrite (bytes offset : Nat) (v : Word) (s : State) : Host.Outcome State Fault Refusal :=
  hostAccess bytes offset (writeRegister offset v s)

/-- A host read: it returns the value at this step (R83) and changes no register. -/
def hostRead (bytes offset : Nat) (s : State) : Host.Outcome State Fault Refusal :=
  hostAccess bytes offset (answerHost (readRegister s.host offset) s)

end Sys2Proof.Machine
end

