-- ==== Sys2Proof/Machine/Reject.lean ====
section
/-! DEFINITION. What a packet does that is none of the table's rows (R151, R190, R194). -/

namespace Sys2Proof.Machine

/-- Format H: the ILLEGAL command. Format B: a reserved request is answered, and an event without the payload its header calls
for is no request (log 13). Format S: `SERR = 1`. -/
def rejectPacket (p : Packet) (s : State) : Host.Outcome State Fault Refusal :=
  match p with
  | .h arg cmd => execIllegal arg cmd s
  | .b header _ => if headerReserved header then .next (reservedBusRequest header s) else .refused .payloadMismatch
  | .s _ => .next (reservedControlWord s)

end Sys2Proof.Machine
end

