-- ==== Sys2Proof/Machine/Step.lean ====
section
/-! DEFINITION. One step of the machine: the next pending event, or, with none pending, the sequencer's next atomic step. -/

namespace Sys2Proof.Machine

/-- A packet at its port: the instruction it decodes to, or what an undecodable packet does. -/
def runPacket (p : Packet) (s : State) : Host.Outcome State Fault Refusal :=
  match decode p with
  | .ok i => exec i s
  | .error _ => rejectPacket p s

/-- One event, taken off the pending list already. -/
def runInput (e : Input) (s : State) : Host.Outcome State Fault Refusal :=
  match e with
  | .packet p => runPacket p s
  | .hostWrite bytes offset v => hostWrite bytes offset v s
  | .hostRead bytes offset => hostRead bytes offset s
  | .sequencer => .next (seqStep s)
  | .blockReset => .next (blockReset s)
  | .powerUp => .next (powerUp s)

/-- One step (R157, R227): events never coincide; with none pending the sequencer moves. -/
def step (s : State) : Host.Outcome State Fault Refusal :=
  match s.env.inputs with
  | [] => .next (seqStep s)
  | e :: rest => runInput e (withInputs rest s)

/-- `s` with the packet whose bits are `w` as the next event: the very next step decodes and runs it. -/
def State.withFetchWord (s : State) (nbits w : Nat) : State :=
  withInputs (.packet (packetOfBits nbits w) :: s.env.inputs) s

end Sys2Proof.Machine
end

