-- ==== Sys2Proof/Machine/Assembler.lean ====
section
/-! DEFINITION. The assembler of 30_encoding.md section 5 (R106 to R109): one line, one instruction. Lines are given as terms, not as text; what is modelled is which word a line stands for. -/

namespace Sys2Proof.Machine

/-- A decimal literal: `digits / 10^places`, negated if it has a minus sign. -/
structure DecimalLiteral where
  negative : Bool
  digits   : Nat
  places   : Nat
  deriving DecidableEq, Repr

/-- `p / q` to the nearest whole number, ties to even. -/
def nearestEven (p q : Nat) : Nat :=
  if 2 * (p % q) < q then p / q
  else if q < 2 * (p % q) then p / q + 1
  else p / q + (p / q) % 2

/-- `p / q` divided by `2^k`, as numerator and denominator. -/
def scaledBy (p q : Nat) (k : Int) : Nat × Nat := if 0 ≤ k then (p, q * 2 ^ k.toNat) else (p * 2 ^ (-k).toNat, q)

/-- The greatest `e` with `2^e ≤ p / q`, for positive `p` and `q`. -/
def binaryExponent (p q : Nat) : Int :=
  if (scaledBy p q ((p.log2 : Int) - q.log2)).1 < (scaledBy p q ((p.log2 : Int) - q.log2)).2
  then (p.log2 : Int) - q.log2 - 1 else (p.log2 : Int) - q.log2

/-- The exponent of the binary32 grid that `p / q` is rounded on: subnormals share the exponent of the least normal. -/
def gridExponent (p q : Nat) : Int := max (binaryExponent p q) (-126)

/-- The magnitude of `p / q` as a binary32 pattern without sign (R108): nearest, ties to even; a value that rounds beyond the
largest finite pattern becomes an infinity. -/
def nearestMagnitude (p q : Nat) : Nat :=
  if p = 0 then 0
  else min (255 * 2 ^ 23)
    ((gridExponent p q + 126).toNat * 2 ^ 23 +
      nearestEven (scaledBy p q (gridExponent p q - 23)).1 (scaledBy p q (gridExponent p q - 23)).2)

/-- `bin32` of a decimal literal (R108). -/
def DecimalLiteral.bin32 (t : DecimalLiteral) : Word :=
  BitVec.ofNat 32 ((if t.negative then 2 ^ 31 else 0) + nearestMagnitude t.digits (10 ^ t.places))

/-- A line of R106 or R107. -/
inductive AsmLine where
  | encodeTemp (temp : DecimalLiteral)
  | decodeCode (code : Half)
  | logData (addr : Half) (temp : DecimalLiteral)
  | readData (addr : Half)
  | waitComplete
  | busWrite (dev : BitVec 7) (bytes : List Byte)
  | busRead (dev : BitVec 7) (n : Byte)
  | busWriteRead (dev : BitVec 7) (bytes : List Byte) (n : Byte)
  | simReset
  | simPeek (index : Half)
  | simGetBusy
  | simGetCount
  deriving DecidableEq, Repr

/-- The instruction a line stands for: one to one (R109), with 0 in every field the command ignores (R106). -/
def assemble : AsmLine → Instr
  | .encodeTemp t => .encodeTemp 0#16 t.bin32
  | .decodeCode c => .decodeCode 0#16 (0#16 ++ c)
  | .logData a t => .logData a t.bin32
  | .readData a => .readData a 0#32
  | .waitComplete => .waitComplete 0#16 0#32
  | .busWrite dev bytes => .busWrite dev 0#8 bytes
  | .busRead dev n => .busRead dev 0#8 n
  | .busWriteRead dev bytes n => .busWriteRead dev bytes n
  | .simReset => .simReset 0#16
  | .simPeek index => .simPeek index
  | .simGetBusy => .simGetBusy 0#16
  | .simGetCount => .simGetCount 0#16

end Sys2Proof.Machine
end

