-- ==== Sys2Proof/Safety.lean ====
section
/-! DEFINITION. What counts as a good state and a safe run: the invariant of the machine, and the events the block admits. -/

namespace Sys2Proof.Machine

/-- `T` in its legal range (00_scope.md R12). -/
def Params.legal (p : Params) : Prop := 1 ≤ p.threshold ∧ p.threshold ≤ 65535

/-- The simulator's memory in canonical form and within its `C` bytes, and the counter invariant of R195. -/
def Simulator.good (T : Nat) (m : Simulator) : Prop :=
  m.mem.wf ∧ m.mem.inCapacity ∧ m.bcnt.toNat < T ∧ (m.busyf = false → m.bcnt = 0#16)

/-- The counters in the poll loop of R150: `polls` probes counted, attempt `att`, and `n` transactions issued, `base` of them
before the loop. -/
def pollCounts (base : Nat) (p : Poll) (polls att n : Nat) : Prop :=
  match p with
  | .first => polls = 0 ∧ n = base
  | .again => 1 ≤ att ∧ att < Config.maxAttempts ∧ polls = att ∧ n = base + att
  | .delay => 1 ≤ att ∧ att ≤ Config.maxAttempts ∧ polls = att ∧ n = base + att
  | .done => 1 ≤ att ∧ att ≤ Config.maxAttempts ∧ polls = att ∧ n = base + att
  | .exhausted => att = Config.maxAttempts ∧ polls = att ∧ n = base + att

/-- The same for every step label. -/
def seqCounts (l : Seq) (polls att n : Nat) : Prop :=
  match l with
  | .idle => polls ≤ Config.maxAttempts ∧ n ≤ Config.maxAttempts + 1
  | .encodeTemp => polls = 0 ∧ n = 0
  | .decodeCode => polls = 0 ∧ n = 0
  | .illegal => polls = 0 ∧ n = 0
  | .logData => polls = 0 ∧ n = 0
  | .logFail => polls = 0 ∧ n = 1
  | .logPoll p => pollCounts 1 p polls att n
  | .readData => polls = 0 ∧ n = 0
  | .readFail => polls = 0 ∧ n = 1
  | .readDone => polls = 0 ∧ n = 1
  | .waitPoll p => pollCounts 0 p polls att n

/-- The three requests the sequencer issues (30_encoding.md R98), all addressed to `DEV_ADDR` (R78), with a memory address of
at most `C - 2` (R61). -/
def sequencerRequest (dev : BitVec 7) (q : BusRequest) : Prop :=
  q = ⟨.write, dev, [], 0⟩
  ∨ (∃ a c : Half, a.toNat + 2 ≤ Config.capacity ∧ q = ⟨.write, dev, (logPayload a c).bytes, 0⟩)
  ∨ (∃ a : Half, a.toNat + 2 ≤ Config.capacity ∧ q = ⟨.writeRead, dev, readPayload a, 2⟩)

/-- The flags agree with each other and with `SEQ`: BUSY exactly while a command runs (R25), DONE never at the same time, OK
exactly without an error cause (R221), PEXH only after 100 probes (R150). -/
def flagsAgree (f : Status) (l : Seq) (polls : Nat) : Prop :=
  (f.busy = true ↔ l ≠ .idle) ∧ (f.busy = true → f.done = false)
  ∧ (f.done = true → (f.ok = true ↔ f.err = .noError)) ∧ (f.pexh = true → polls = Config.maxAttempts)

/-- The invariant of the machine. -/
structure State.Inv (s : State) : Prop where
  /-- `T` is in range. -/
  legal : s.params.legal
  /-- The simulator is in a state of R195. -/
  simGood : s.sim.good s.params.threshold
  /-- The flags agree. -/
  flags : flagsAgree s.host.status s.seqr.seq s.host.polls.toNat
  /-- `ATT` is from 0 to 100 (R30). -/
  attRange : s.seqr.att ≤ Config.maxAttempts
  /-- The probe count, the attempt index and the traffic agree with `SEQ`. -/
  counts : seqCounts s.seqr.seq s.host.polls.toNat s.seqr.att s.env.traffic.length
  /-- Only the three requests of R98 were issued. -/
  requests : ∀ t ∈ s.env.traffic, sequencerRequest s.params.devAddr t.request

/-- The events the block admits: aligned word accesses inside the window (R82), and bus requests with their payload (R97). -/
def admitted : Input → Prop
  | .packet (.h _ _) => True
  | .packet (.b q payload) => headerReserved q = true ∨ payload.length = payloadBytes q
  | .packet (.s _) => True
  | .hostWrite bytes offset _ => bytes = 4 ∧ offset % 4 = 0 ∧ offset < windowBytes
  | .hostRead bytes offset => bytes = 4 ∧ offset % 4 = 0 ∧ offset < windowBytes
  | .sequencer => True
  | .blockReset => True
  | .powerUp => True

end Sys2Proof.Machine
end

