-- ==== Sys2Proof/Certificates/Slice0/Obligations.lean ====
section
/-! DEFINITION. The statements about the model, for the provers. -/

open Sys2Proof Sys2Proof.Machine

/-! Words used by the statements. -/

/-- `STATUS` after a `finish`: BUSY and OVR clear, DONE set. -/
def doneStatus (ok pexh : Bool) (err : ErrCause) (busst : BusStatus) : Status :=
  { busy := false, done := true, ok := ok, ovr := false, pexh := pexh, err := err, busst := busst }

/-- The state after a command word with opcode `op` has run to its `finish`. `s` is the state after the device's answers: its
parameters, simulator and answers are kept, its host registers and the sequencer's elements are the ones given. -/
def finishedState (s : State) (op : BitVec 4) (addr : Half) (arg : Word) (status : Status) (result : Word) (raw : Half)
    (polls att : Nat) (tx : TxBuffer) (rx : RxBuffer) (traffic : List Transaction) : State :=
  { s with
    host := { cmdArg := arg, cmd := commandWord addr op, status := status, result := result, raw := raw,
              polls := BitVec.ofNat 8 polls }
    seqr := { seq := .idle, lOp := op, lAddr := addr, lArg := arg, att := att, tx := tx, rx := rx }
    env := { s.env with traffic := traffic } }

/-- The state after a command that issued no bus traffic: the device is as before. -/
def localFinish (s : State) (op : BitVec 4) (addr : Half) (arg : Word) (ok : Bool) (err : ErrCause) (result : Word)
    (raw : Half) : State :=
  finishedState s op addr arg (doneStatus ok false err .ok) result raw 0 s.seqr.att s.seqr.tx s.seqr.rx []

/-- The data write LOG_DATA issues (R98). -/
def dataWriteRequest (dev : BitVec 7) (a c : Half) : BusRequest := ⟨.write, dev, (logPayload a c).bytes, 0⟩

/-- The read-back READ_DATA issues (R98). -/
def readBackRequest (dev : BitVec 7) (a : Half) : BusRequest := ⟨.writeRead, dev, readPayload a, 2⟩

/-- The probe of the poll loop (R98). -/
def probeRequest (dev : BitVec 7) : BusRequest := ⟨.write, dev, [], 0⟩

/-- The address LOG_DATA's checks accept (R152). -/
def acceptedAddress (a : Half) : Prop := (a.toNat ≤ 32765 ∧ a.toNat % 64 ≤ 61) ∨ a.toNat = 32766

/-- How many requests a simulator will still not acknowledge. -/
def busyRequestsLeft (T : Nat) (m : Simulator) : Nat := if m.busyf then T - m.bcnt.toNat else 0

/-- The simulator after `n` requests that met it busy or found it idle and changed nothing. -/
def afterRequests (T n : Nat) (m : Simulator) : Simulator :=
  if n < busyRequestsLeft T m then { m with bcnt := BitVec.ofNat 16 (m.bcnt.toNat + n) }
  else { m with busyf := false, bcnt := 0#16 }

/-- The traffic of a poll loop against a simulator with `n` busy requests left (R197). -/
def pollTrafficOfSimulator (dev : BitVec 7) (n : Nat) : List Transaction :=
  List.replicate (min n Config.maxAttempts) ⟨probeRequest dev, .notAcknowledged⟩
    ++ (if n < Config.maxAttempts then [⟨probeRequest dev, .ok⟩] else [])

/-- The traffic of a poll loop of `k` probes (R154): probes 1 to `k-1` are not Ok; probe `k` is Ok, or `k = 100`. -/
def isPollTraffic (dev : BitVec 7) (k : Nat) (l : List Transaction) : Prop :=
  1 ≤ k ∧ k ≤ Config.maxAttempts ∧ l.length = k ∧ (∀ t ∈ l, t.request = probeRequest dev)
  ∧ (∀ t ∈ l.dropLast, t.status ≠ .ok) ∧ (l.getLast?.map Transaction.status = some .ok ∨ k = Config.maxAttempts)

/-- The number that stands for an error cause in STATUS bits 10:8 (R26). -/
def errNumber : ErrCause → Nat
  | .noError => 0
  | .range => 1
  | .page => 2
  | .bus => 3
  | .illegal => 4

/-- The number that stands for a bus status in STATUS bits 13:12 (R100). -/
def busNumber : BusStatus → Nat
  | .ok => 0
  | .generalError => 1
  | .notAcknowledged => 2
  | .timeout => 3

/-- The format B instruction that asks for what a request asks for, taken from the request's own fields (R97). -/
def instrOfRequest (q : BusRequest) : Instr :=
  match q.kind with
  | .write => .busWrite q.dev (BitVec.ofNat 8 q.rxlen) q.tx
  | .read => .busRead q.dev (BitVec.ofNat 8 q.tx.length) (BitVec.ofNat 8 q.rxlen)
  | .writeRead => .busWriteRead q.dev q.tx (BitVec.ofNat 8 q.rxlen)

/-- A write phase of three bytes or more that ends within the capacity (R186): an idle simulator stores it. -/
def storesData (tx : List Byte) : Prop :=
  3 ≤ tx.length ∧ writeAddress tx + (writeData tx).length ≤ Config.capacity

/-- The busy pair of a simulator, BUSYF and BCNT, after one request that met it busy (R182). -/
def busyPairAfter (T : Nat) (m : Simulator) : Bool × BitVec 16 :=
  if T ≤ m.bcnt.toNat + 1 then (false, 0#16) else (true, m.bcnt + 1#16)

/-- A format H instruction: a host command. -/
def Sys2Proof.Instr.isCommand (i : Instr) : Prop := ∃ arg cmd, encode i = .h arg cmd

/-! Encoding. -/

/-- Words written out from the spec's tables and examples decode to the rows they stand for: 40_codec.md R120 and R121,
41_log_driver.md R147 to R149, 95_test_vectors.md section 2.6. -/
def Obligations.SpecWordsDecodeToTheirRows : Prop :=
  decode (.h 0x41B40000#32 0x00000001#32) = .ok (.encodeTemp 0#16 0x41B40000#32)
  ∧ decode (.h 0x00000168#32 0x00000002#32) = .ok (.decodeCode 0#16 0x168#32)
  ∧ decode (.h 0x41960000#32 0x00640003#32) = .ok (.logData 100#16 0x41960000#32)
  ∧ decode (.h 0x00000000#32 0x00640004#32) = .ok (.readData 100#16 0#32)
  ∧ decode (.h 0x00000000#32 0x00000005#32) = .ok (.waitComplete 0#16 0#32)
  ∧ decode (.b 0x00020140#32 [0x00#8, 0x64#8]) = .ok (.busWrite 0x50#7 0#8 [0x00#8, 0x64#8])
  ∧ decode (.b 0x02000141#32 []) = .ok (.busRead 0x50#7 0#8 2#8)
  ∧ decode (.b 0x01020142#32 [0x7F#8, 0xFF#8]) = .ok (.busWriteRead 0x50#7 [0x7F#8, 0xFF#8] 1#8)
  ∧ decode (.s 0x00000001#32) = .ok (.simReset 0#16)
  ∧ decode (.s 0x7FFF0002#32) = .ok (.simPeek 0x7FFF#16)
  ∧ decode (.s 0x00000003#32) = .ok (.simGetBusy 0#16)
  ∧ decode (.s 0x00000004#32) = .ok (.simGetCount 0#16)

/-- For every well-formed instruction, decoding its words gives it back, with every operand at every value. -/
def Obligations.DecodeOfEncodeIsTheInstruction : Prop :=
  ∀ i : Instr, i.wellFormed = true → decode (encode i) = .ok i

/-- Where a packet decodes, it is the encoding of what it decodes to, and that is well formed: each packet has one meaning. -/
def Obligations.EncodeOfDecodeIsThePacket : Prop :=
  ∀ (p : Packet) (i : Instr), decode p = .ok i → encode i = p ∧ i.wellFormed = true

/-- `decodeH` (R95) with the fields of R91 as numbers: `w` is the 64-bit word `{CMD_ARG, CMD}`. -/
def Obligations.CommandWordReadsItsFields : Prop :=
  ∀ w : Nat, w < 2 ^ 64 →
    decodeTableWord 64 w =
      if w / 16 % 4096 ≠ 0 then none
      else if w % 16 = 1 then some (.encodeTemp (BitVec.ofNat 16 (w / 65536)) (BitVec.ofNat 32 (w / 2 ^ 32)))
      else if w % 16 = 2 then some (.decodeCode (BitVec.ofNat 16 (w / 65536)) (BitVec.ofNat 32 (w / 2 ^ 32)))
      else if w % 16 = 3 then some (.logData (BitVec.ofNat 16 (w / 65536)) (BitVec.ofNat 32 (w / 2 ^ 32)))
      else if w % 16 = 4 then some (.readData (BitVec.ofNat 16 (w / 65536)) (BitVec.ofNat 32 (w / 2 ^ 32)))
      else if w % 16 = 5 then some (.waitComplete (BitVec.ofNat 16 (w / 65536)) (BitVec.ofNat 32 (w / 2 ^ 32)))
      else none

/-- A bus header (R97, R101) and a simulator control word (R102), with their fields as numbers. -/
def Obligations.BusAndControlWordsReadTheirFields : Prop :=
  (∀ (q : Word) (tx : List Byte),
    (q.toNat / 512 % 128 ≠ 0 ∨ q.toNat % 4 = 3 → (decode (.b q tx)).toOption = none)
    ∧ (q.toNat / 512 % 128 = 0 → q.toNat % 4 = 0 → tx.length = q.toNat / 65536 % 256 →
        decode (.b q tx) = .ok (.busWrite (BitVec.ofNat 7 (q.toNat / 4)) (BitVec.ofNat 8 (q.toNat / 2 ^ 24)) tx))
    ∧ (q.toNat / 512 % 128 = 0 → q.toNat % 4 = 1 →
        decode (.b q []) = .ok (.busRead (BitVec.ofNat 7 (q.toNat / 4)) (BitVec.ofNat 8 (q.toNat / 65536))
          (BitVec.ofNat 8 (q.toNat / 2 ^ 24))))
    ∧ (q.toNat / 512 % 128 = 0 → q.toNat % 4 = 2 → tx.length = q.toNat / 65536 % 256 →
        decode (.b q tx) = .ok (.busWriteRead (BitVec.ofNat 7 (q.toNat / 4)) tx (BitVec.ofNat 8 (q.toNat / 2 ^ 24)))))
  ∧ ∀ w : Word,
    (decode (.s w)).toOption =
      if w.toNat / 16 % 4096 ≠ 0 then none
      else if w.toNat % 16 = 1 then some (.simReset (BitVec.ofNat 16 (w.toNat / 65536)))
      else if w.toNat % 16 = 2 then some (.simPeek (BitVec.ofNat 16 (w.toNat / 65536)))
      else if w.toNat % 16 = 3 then some (.simGetBusy (BitVec.ofNat 16 (w.toNat / 65536)))
      else if w.toNat % 16 = 4 then some (.simGetCount (BitVec.ofNat 16 (w.toNat / 65536)))
      else none

/-- The words the assembler writes (R106, R107), as numbers: `W = {CMD_ARG, CMD}`, bus headers and control words. -/
def Obligations.AssembledWords : Prop :=
  (∀ t, encode (assemble (.encodeTemp t)) = .h t.bin32 1#32)
  ∧ (∀ c : Half, encode (assemble (.decodeCode c)) = .h (c.setWidth 32) 2#32)
  ∧ (∀ (a : Half) t, encode (assemble (.logData a t)) = .h t.bin32 (BitVec.ofNat 32 (a.toNat * 65536 + 3)))
  ∧ (∀ a : Half, encode (assemble (.readData a)) = .h 0#32 (BitVec.ofNat 32 (a.toNat * 65536 + 4)))
  ∧ encode (assemble .waitComplete) = .h 0#32 5#32
  ∧ (∀ (d : BitVec 7) (tx : List Byte), tx.length ≤ 255 → encode (assemble (.busWrite d tx))
      = .b (BitVec.ofNat 32 (tx.length * 65536 + d.toNat * 4)) tx)
  ∧ (∀ (d : BitVec 7) (n : Byte), encode (assemble (.busRead d n))
      = .b (BitVec.ofNat 32 (n.toNat * 2 ^ 24 + d.toNat * 4 + 1)) [])
  ∧ (∀ (d : BitVec 7) (tx : List Byte) (n : Byte), tx.length ≤ 255 → encode (assemble (.busWriteRead d tx n))
      = .b (BitVec.ofNat 32 (n.toNat * 2 ^ 24 + tx.length * 65536 + d.toNat * 4 + 2)) tx)
  ∧ encode (assemble .simReset) = .s 1#32
  ∧ (∀ x : Half, encode (assemble (.simPeek x)) = .s (BitVec.ofNat 32 (x.toNat * 65536 + 2)))
  ∧ encode (assemble .simGetBusy) = .s 3#32
  ∧ encode (assemble .simGetCount) = .s 4#32

/-! The step. -/

/-- A step whose next event is a packet that decodes runs exactly that instruction's meaning, on the state with the event
taken off the list. -/
def Obligations.StepRunsTheDecodedInstruction : Prop :=
  ∀ (s : State) (p : Packet) (i : Instr) (rest : List Input),
    s.env.inputs = .packet p :: rest → decode p = .ok i → step s = exec i (withInputs rest s)

/-- The block does nothing until the host writes CMD (R254): with no event pending and no command running, a step changes
nothing; and neither a host write to another register than CMD nor a host read starts a command. -/
def Obligations.NothingHappensWithoutACommand : Prop :=
  ∀ s : State, s.seqr.seq = .idle →
    (s.env.inputs = [] → step s = .next s)
    ∧ (∀ rest, s.env.inputs = .sequencer :: rest → step s = .next (withInputs rest s))
    ∧ (∀ offset v rest, s.env.inputs = .hostWrite 4 offset v :: rest → offset < 32 → offset % 4 = 0 → offset ≠ 4 →
        ∃ t, step s = .next t ∧ t.seqr = s.seqr ∧ t.sim = s.sim)
    ∧ (∀ offset rest, s.env.inputs = .hostRead 4 offset :: rest → offset < 32 → offset % 4 = 0 →
        ∃ t, step s = .next t ∧ t.host = s.host ∧ t.seqr = s.seqr ∧ t.sim = s.sim)

/-- An ILLEGAL command word (R151): accepted, then `finish(0, ILLEGAL, 0, 0x0000)`, with no bus traffic and no other change. -/
def Obligations.IllegalCommandFinishesWithIllegal : Prop :=
  ∀ (s : State) (arg cmd : Word) (rest : List Input),
    s.env.inputs = .packet (.h arg cmd) :: rest → s.host.status.busy = false →
    (cmd.toNat / 16 % 4096 ≠ 0 ∨ cmd.toNat % 16 = 0 ∨ 6 ≤ cmd.toNat % 16) →
    step s = .next
      { s with
        host := { cmdArg := arg, cmd := cmd, status := doneStatus false false .illegal .ok, result := 0#32, raw := 0#16,
                  polls := 0#8 }
        seqr := { s.seqr with
          seq := .idle, lOp := BitVec.ofNat 4 cmd.toNat, lAddr := BitVec.ofNat 16 (cmd.toNat / 65536), lArg := arg }
        env := { s.env with inputs := rest, traffic := [] } }

/-- A command word sent while a command runs (R140): CMD is unchanged, OVR is set, CMD_ARG takes its word, nothing else
changes. -/
def Obligations.CommandWhileBusyIsDropped : Prop :=
  ∀ (i : Instr) (s : State) (arg cmd : Word), encode i = .h arg cmd → s.host.status.busy = true →
    exec i s = .next
      { s with host := { s.host with cmdArg := arg, status := { s.host.status with ovr := true } } }

/-- With the simulator as the device: a reserved bus request (R190) is answered GeneralError, also while busy, and a reserved
control word (R194) with `SERR = 1`, `SVAL = 0`; neither changes any state. -/
def Obligations.ReservedWordsChangeNothing : Prop :=
  ∀ (s : State) (w : Word) (tx : List Byte) (rest : List Input), s.params.device = .simulator →
    (s.env.inputs = .packet (.b w tx) :: rest →
      (w.toNat % 4 = 3 ∨ w.toNat / 512 % 128 ≠ 0) →
      step s = .next { s with env := { s.env with inputs := rest, busOut := some ⟨.generalError, []⟩ } })
    ∧ (s.env.inputs = .packet (.s w) :: rest →
      (w.toNat % 16 = 0 ∨ 5 ≤ w.toNat % 16 ∨ w.toNat / 16 % 4096 ≠ 0) →
      step s = .next { s with env := { s.env with inputs := rest, ctlOut := ⟨true, 0#32⟩ } })

/-- A command packet is its own atomic steps (R157, R91): issuing the two host writes and letting the sequencer step, with no
other event, ends in the state the one packet event gives. Every command word, legal or not; every device. Log 1. -/
def Obligations.CommandPacketIsItsAtomicSteps : Prop :=
  ∀ (s : State) (arg cmd : Word), s.host.status.busy = false →
    Host.Core.run Sys2Proof.core (2 + longestCommand)
        (withInputs [.hostWrite 4 0 arg, .hostWrite 4 4 cmd] s)
      = step (withInputs [.packet (.h arg cmd)] s)

/-! Reset. -/

/-- Reset of the block (R250): every host register and every internal element takes its reset value, whatever ran; the
simulator and the real device's answers are left alone (R251). Power-up (R253) does the same to the block and puts the
simulator in its initial state. The state after reset reads the same, with no event pending (log 2), the default `T` of R12 and
the simulator on the bus (log 4). The list of transactions, emptied by both, is the model's own (log 11). -/
def Obligations.ResetAndPowerUpStates : Prop :=
  (∀ (s : State) (rest : List Input), s.env.inputs = .blockReset :: rest →
    ∃ t, step s = .next t
      ∧ (∀ offset, readRegister t.host offset = 0#32)
      ∧ t.seqr = ⟨.idle, 0#4, 0#16, 0#32, 0, ⟨0#8, 0#8, 0#8, 0#8⟩, ⟨0#8, 0#8⟩⟩
      ∧ t.sim = s.sim ∧ t.params = s.params ∧ t.env = { s.env with inputs := rest, traffic := [] })
  ∧ (∀ (s : State) (rest : List Input), s.env.inputs = .powerUp :: rest →
    ∃ t, step s = .next t
      ∧ (∀ offset, readRegister t.host offset = 0#32)
      ∧ t.seqr = ⟨.idle, 0#4, 0#16, 0#32, 0, ⟨0#8, 0#8, 0#8, 0#8⟩, ⟨0#8, 0#8⟩⟩
      ∧ (∀ a, t.sim.mem.read a = 0xFF#8) ∧ t.sim.busyf = false ∧ t.sim.bcnt = 0#16 ∧ t.sim.ptr = 0#16
      ∧ t.params = s.params ∧ t.env = { s.env with inputs := rest, traffic := [] })
  ∧ (∀ offset, readRegister State.reset.host offset = 0#32)
  ∧ State.reset.seqr = ⟨.idle, 0#4, 0#16, 0#32, 0, ⟨0#8, 0#8, 0#8, 0#8⟩, ⟨0#8, 0#8⟩⟩
  ∧ (∀ a, State.reset.sim.mem.read a = 0xFF#8) ∧ State.reset.sim.busyf = false ∧ State.reset.sim.bcnt = 0#16
  ∧ State.reset.sim.ptr = 0#16 ∧ State.reset.params.threshold = 50 ∧ State.reset.params.device = .simulator
  ∧ State.reset.env.inputs = [] ∧ State.reset.env.traffic = []

/-! The host register window. -/

/-- A host write of CMD (R140), in both cases. -/
def Obligations.HostWriteOfCmd : Prop :=
  ∀ (s : State) (v : Word) (rest : List Input), s.env.inputs = .hostWrite 4 4 v :: rest →
    (s.host.status.busy = true →
      step s = .next
        { s with
          host := { s.host with status := { s.host.status with ovr := true } }
          env := { s.env with inputs := rest } })
    ∧ (s.host.status.busy = false →
      ∃ t, step s = .next t
        ∧ t.host = { cmdArg := s.host.cmdArg, cmd := v
                     status := { busy := true, done := false, ok := false, ovr := false, pexh := false, err := .noError,
                                 busst := .ok }
                     result := s.host.result, raw := s.host.raw, polls := 0#8 }
        ∧ t.seqr = { seq := if v.toNat / 16 % 4096 ≠ 0 then .illegal
                       else if v.toNat % 16 = 1 then .encodeTemp
                       else if v.toNat % 16 = 2 then .decodeCode
                       else if v.toNat % 16 = 3 then .logData
                       else if v.toNat % 16 = 4 then .readData
                       else if v.toNat % 16 = 5 then .waitPoll .first
                       else .illegal
                     lOp := BitVec.ofNat 4 v.toNat, lAddr := BitVec.ofNat 16 (v.toNat / 65536), lArg := s.host.cmdArg
                     att := s.seqr.att, tx := s.seqr.tx, rx := s.seqr.rx }
        ∧ t.sim = s.sim ∧ t.params = s.params
        ∧ t.env = { s.env with inputs := rest, traffic := t.env.traffic })

/-- Every other aligned word write (R22, R23): CMD_ARG takes the value at any time; the read-only registers and the reserved
offsets ignore it. -/
def Obligations.OtherHostWrites : Prop :=
  ∀ (s : State) (offset : Nat) (v : Word) (rest : List Input), s.env.inputs = .hostWrite 4 offset v :: rest →
    (offset = 0 → step s = .next { s with host := { s.host with cmdArg := v }, env := { s.env with inputs := rest } })
    ∧ (8 ≤ offset → offset < 32 → offset % 4 = 0 → step s = .next { s with env := { s.env with inputs := rest } })

/-- An aligned word read returns the register at that offset (R22) and changes nothing (R83); the fields of STATUS, RAW and
POLLS stand at the bits R25, R28 and R29 give them, ERR and BUSST with the values of R26 and R100, and reserved bits and
offsets read 0. -/
def Obligations.HostReadReturnsTheRegister : Prop :=
  ∀ (s : State) (offset : Nat) (rest : List Input), s.env.inputs = .hostRead 4 offset :: rest →
    offset < 32 → offset % 4 = 0 →
    ∃ v : Word, step s = .next { s with env := { s.env with inputs := rest, hostOut := v } }
      ∧ (offset = 0x00 → v = s.host.cmdArg) ∧ (offset = 0x04 → v = s.host.cmd)
      ∧ (offset = 0x08 → v.toNat = s.host.status.busy.toNat + 2 * s.host.status.done.toNat + 4 * s.host.status.ok.toNat
          + 8 * s.host.status.ovr.toNat + 16 * s.host.status.pexh.toNat
          + 256 * errNumber s.host.status.err + 4096 * busNumber s.host.status.busst)
      ∧ (offset = 0x0C → v = s.host.result) ∧ (offset = 0x10 → v.toNat = s.host.raw.toNat)
      ∧ (offset = 0x14 → v.toNat = s.host.polls.toNat) ∧ (0x18 ≤ offset → v = 0#32)

/-- The window admits only aligned 32-bit accesses (R82), and there is no register at 0x20 or above (R60). -/
def Obligations.OnlyAlignedWordsAreAdmitted : Prop :=
  ∀ (s : State) (bytes offset : Nat) (v : Word) (rest : List Input) (e : Input),
    s.env.inputs = e :: rest → (e = .hostWrite bytes offset v ∨ e = .hostRead bytes offset) →
    (offset < 32 → bytes ≠ 4 ∨ offset % 4 ≠ 0 → step s = .refused (.notAnAlignedWord bytes offset))
    ∧ (32 ≤ offset → step s = .fault (.noSuchRegister offset))

/-! The codec. -/

/-- ENCODE (R120) finishes with OK, RESULT the sign-extended code and RAW the code; no bus traffic, the device unchanged. -/
def Obligations.EncodeFinishesWithTheCode : Prop :=
  ∀ (s : State) (addr : Half) (arg : Word), s.host.status.busy = false →
    exec (.encodeTemp addr arg) s
      = .next (localFinish s 1#4 addr arg true .noError (BitVec.ofInt 32 (enc arg).toInt) (enc arg))

/-- DECODE (R121) finishes with OK, RESULT the binary32 value of `ARG[15:0]` and RAW that code. -/
def Obligations.DecodeFinishesWithTheTemperature : Prop :=
  ∀ (s : State) (addr : Half) (arg : Word), s.host.status.busy = false →
    exec (.decodeCode addr arg) s
      = .next (localFinish s 2#4 addr arg true .noError (dec (BitVec.ofNat 16 arg.toNat)) (BitVec.ofNat 16 arg.toNat))

/-- `enc` of a finite pattern is the exact product truncated toward zero, modulo 65536 (R122). -/
def Obligations.EncIsTheTruncatedProduct : Prop :=
  ∀ f : Word, expOf f ≠ 255 → enc f = BitVec.ofInt 16 (trunc (16 * real f))

/-- `dec` is exact and total (R127): its value is `s16(c) / 16`, of at most 16 significant bits, between -2048 and 2047.9375,
and it is never a NaN, an infinity, a subnormal or -0.0. -/
def Obligations.DecIsExact : Prop :=
  ∀ c : Half, real (dec c) = (c.toInt : ℚ) / 16 ∧ c.toInt.natAbs < 2 ^ 16
    ∧ -2048 ≤ real (dec c) ∧ real (dec c) ≤ 2047 + 15 / 16
    ∧ expOf (dec c) ≠ 255 ∧ (expOf (dec c) = 0 → dec c = 0#32)

/-- Decode then encode is the identity (R126). -/
def Obligations.EncOfDecIsTheCode : Prop :=
  ∀ c : Half, real (dec c) * 16 = (c.toInt : ℚ) ∧ enc (dec c) = c

/-- Round trip on the domain (R123): every multiple of 1/16 from -2048 up to but not including 2048 is the value of a binary32
pattern, and every pattern of that value comes back exactly. -/
def Obligations.RoundTripOnTheDomain : Prop :=
  ∀ k : Int, -32768 ≤ k → k < 32768 →
    (∃ f : Word, expOf f ≠ 255 ∧ real f = (k : ℚ) / 16)
    ∧ ∀ f : Word, expOf f ≠ 255 → real f = (k : ℚ) / 16 → real (dec (enc f)) = (k : ℚ) / 16

/-- The error bound on the domain (R124). -/
def Obligations.ErrorBoundOnTheDomain : Prop :=
  ∀ f : Word, expOf f ≠ 255 → -2048 < real f → real f < 2048 →
    real (dec (enc f)) = (trunc (16 * real f) : ℚ) / 16
    ∧ (real (dec (enc f)) = 0 ∨ 0 < real (dec (enc f)) * real f)
    ∧ |real (dec (enc f))| ≤ |real f| ∧ |real f| - |real (dec (enc f))| < 1 / 16

/-- The wrap outside the domain (R125): the decoded value differs from the truncated one by a nonzero multiple of 4096. -/
def Obligations.WrapOutsideTheDomain : Prop :=
  ∀ f : Word, expOf f ≠ 255 → (trunc (16 * real f) < -32768 ∨ 32767 < trunc (16 * real f)) →
    ∃ k : Int, k ≠ 0 ∧ real (dec (enc f)) = (trunc (16 * real f) : ℚ) / 16 - 4096 * k

/-- The sentinel is a decodable value (R128): DECODE of 0xC190 answers it, with OK. -/
def Obligations.SentinelIsDecodable : Prop :=
  dec 0xC190#16 = Config.sentinel ∧ real Config.sentinel = -999
  ∧ ∀ (s : State) (addr : Half), s.host.status.busy = false →
      ∃ t, exec (.decodeCode addr 0xC190#32) s = .next t ∧ t.host.result = Config.sentinel ∧ t.host.status.ok = true

/-! LOG_DATA, READ_DATA, WAIT_COMPLETE. -/

/-- The addresses LOG_DATA and READ_DATA accept (R142, R143, R146, R152). -/
def Obligations.AddressesTheChecksAccept : Prop :=
  ∀ a : Half,
    (capOk a = true ↔ a.toNat ≤ 32766)
    ∧ (pageOk a = true ↔ a.toNat % 64 ≤ 61 ∨ 32766 ≤ a.toNat)
    ∧ (readOk a = true ↔ a.toNat ≤ 32766)
    ∧ ((capOk a = true ∧ pageOk a = true) ↔ acceptedAddress a)

/-- LOG_DATA and READ_DATA reject an address before any bus traffic (R147, R148, R221, R226): RANGE before PAGE; READ_DATA
returns the sentinel; every device is left alone. -/
def Obligations.BadAddressesAreRejectedLocally : Prop :=
  ∀ (s : State) (a : Half) (f : Word), s.host.status.busy = false →
    (32767 ≤ a.toNat → exec (.logData a f) s = .next (localFinish s 3#4 a f false .range 0#32 0#16))
    ∧ (a.toNat ≤ 32765 → 62 ≤ a.toNat % 64 →
        exec (.logData a f) s = .next (localFinish s 3#4 a f false .page 0#32 0#16))
    ∧ (32767 ≤ a.toNat → exec (.readData a f) s = .next (localFinish s 4#4 a f false .range 0xC479C000#32 0#16))

/-- LOG_DATA after a data write that is not Ok (R147 step 4, R221): BUS, RESULT 0, RAW the code, no probe. Every device. -/
def Obligations.LogDataReportsAFailedWrite : Prop :=
  ∀ (s s1 : State) (a : Half) (f : Word) (r : BusResponse), s.host.status.busy = false → acceptedAddress a →
    deviceAnswer (dataWriteRequest s.params.devAddr a (enc f)) s = some (r, s1) → r.status ≠ .ok →
    exec (.logData a f) s
      = .next (finishedState s1 3#4 a f (doneStatus false false .bus r.status) 0#32 (enc f) 0 s.seqr.att
          (logPayload a (enc f)) s.seqr.rx [⟨dataWriteRequest s.params.devAddr a (enc f), r.status⟩])

/-- LOG_DATA against an idle simulator (R147, R186, R197): the sample's two bytes are stored big-endian at `a`, and the wait
issues `min(T + 1, 100)` probes; with `T` of 100 or more it is exhausted and the command still succeeds (R153). That ATT keeps
the number of the last attempt is log 15. -/
def Obligations.LogDataOnAnIdleSimulator : Prop :=
  ∀ (s : State) (a : Half) (f : Word), s.host.status.busy = false → acceptedAddress a →
    s.params.device = .simulator → s.sim.busyf = false → 1 ≤ s.params.threshold →
    exec (.logData a f) s
      = .next (finishedState
          { s with sim :=
            { s.sim with
              mem := s.sim.mem.writeBytes a.toNat [hiByte (enc f), loByte (enc f)]
              busyf := decide (101 ≤ s.params.threshold)
              bcnt := if 101 ≤ s.params.threshold then 100#16 else 0#16 } }
          3#4 a f
          (doneStatus true (decide (100 ≤ s.params.threshold)) .noError
            (if 100 ≤ s.params.threshold then .notAcknowledged else .ok))
          1#32 (enc f) (min (s.params.threshold + 1) 100) (min (s.params.threshold + 1) 100)
          (logPayload a (enc f)) s.seqr.rx
          (⟨dataWriteRequest s.params.devAddr a (enc f), .ok⟩
            :: pollTrafficOfSimulator s.params.devAddr s.params.threshold))

/-- LOG_DATA is best effort (R153): once the data write is acknowledged it succeeds, whatever the probes are answered, on every
device that answers. -/
def Obligations.LogDataIsBestEffort : Prop :=
  ∀ (s s1 : State) (a : Half) (f : Word) (r : BusResponse), s.host.status.busy = false → acceptedAddress a →
    deviceAnswer (dataWriteRequest s.params.devAddr a (enc f)) s = some (r, s1) → r.status = .ok →
    ∃ t, exec (.logData a f) s = .next t
      ∧ t.host.status.ok = true ∧ t.host.status.err = .noError ∧ t.host.status.done = true ∧ t.host.status.busy = false
      ∧ t.host.result = 1#32 ∧ t.host.raw = enc f ∧ 1 ≤ t.host.polls.toNat ∧ t.host.polls.toNat ≤ 100
      ∧ (t.host.status.pexh = true ↔ t.host.status.busst ≠ .ok) ∧ (t.host.status.pexh = true → t.host.polls = 100#8)

/-- READ_DATA reports what the device answers (R148, R221), on every device: an Ok answer with bytes `x`, `y` is the code
`{x, y}`, decoded; any other answer is BUS and the sentinel, with RX unchanged (R99). That TX keeps its bytes is log 15. -/
def Obligations.ReadDataReportsTheAnswer : Prop :=
  ∀ (s s1 : State) (a : Half) (arg : Word) (r : BusResponse), s.host.status.busy = false → a.toNat ≤ 32766 →
    deviceAnswer (readBackRequest s.params.devAddr a) s = some (r, s1) →
    (∀ x y : Byte, r = ⟨.ok, [x, y]⟩ →
      exec (.readData a arg) s
        = .next (finishedState s1 4#4 a arg (doneStatus true false .noError .ok) (dec (joinBytes x y)) (joinBytes x y) 0
            s.seqr.att s.seqr.tx ⟨x, y⟩ [⟨readBackRequest s.params.devAddr a, .ok⟩]))
    ∧ (r.status ≠ .ok →
      exec (.readData a arg) s
        = .next (finishedState s1 4#4 a arg (doneStatus false false .bus r.status) 0xC479C000#32 0#16 0
            s.seqr.att s.seqr.tx s.seqr.rx [⟨readBackRequest s.params.devAddr a, r.status⟩]))

/-- READ_DATA against the simulator (R148, R189, R63): idle, it returns `{MEM[a], MEM[a+1]}` and sets PTR; busy, it is not
acknowledged, costs one unit of the busy period (R261), and returns the sentinel. That TX keeps its bytes is log 15. -/
def Obligations.ReadDataOnTheSimulator : Prop :=
  ∀ (s : State) (a : Half) (arg : Word), s.host.status.busy = false → a.toNat ≤ 32766 → s.params.device = .simulator →
    (s.sim.busyf = false →
      exec (.readData a arg) s
        = .next (finishedState { s with sim := { s.sim with ptr := a } } 4#4 a arg (doneStatus true false .noError .ok)
            (dec (s.sim.mem.read a.toNat ++ s.sim.mem.read (a.toNat + 1)))
            (s.sim.mem.read a.toNat ++ s.sim.mem.read (a.toNat + 1)) 0
            s.seqr.att s.seqr.tx ⟨s.sim.mem.read a.toNat, s.sim.mem.read (a.toNat + 1)⟩
            [⟨readBackRequest s.params.devAddr a, .ok⟩]))
    ∧ (s.sim.busyf = true → s.sim.bcnt.toNat < s.params.threshold →
      exec (.readData a arg) s
        = .next (finishedState { s with sim := afterRequests s.params.threshold 1 s.sim } 4#4 a arg
            (doneStatus false false .bus .notAcknowledged) 0xC479C000#32 0#16 0
            s.seqr.att s.seqr.tx s.seqr.rx [⟨readBackRequest s.params.devAddr a, .notAcknowledged⟩]))

/-- WAIT_COMPLETE against the simulator (R149, R150, R197): with `n` busy requests left it issues `min(n + 1, 100)` probes.
That ATT keeps the number of the last attempt, and TX its bytes, is log 15. -/
def Obligations.WaitCompleteOnTheSimulator : Prop :=
  ∀ (s : State) (addr : Half) (arg : Word), s.host.status.busy = false → s.params.device = .simulator →
    s.params.legal → s.sim.good s.params.threshold →
    exec (.waitComplete addr arg) s
      = .next (finishedState
          { s with sim := afterRequests s.params.threshold 100 s.sim } 5#4 addr arg
          (doneStatus true (decide (100 ≤ busyRequestsLeft s.params.threshold s.sim)) .noError
            (if 100 ≤ busyRequestsLeft s.params.threshold s.sim then .notAcknowledged else .ok))
          0#32 0#16 (min (busyRequestsLeft s.params.threshold s.sim + 1) 100)
          (min (busyRequestsLeft s.params.threshold s.sim + 1) 100) s.seqr.tx s.seqr.rx
          (pollTrafficOfSimulator s.params.devAddr (busyRequestsLeft s.params.threshold s.sim)))

/-- WAIT_COMPLETE always succeeds on a device that answers (R149, R150): 1 to 100 probes, BUSST the last one's status, PEXH
exactly when that is not Ok. -/
def Obligations.WaitCompleteAlwaysSucceeds : Prop :=
  ∀ (s : State) (addr : Half) (arg : Word), s.host.status.busy = false → s.params.device ≠ .silent →
    ∃ t, exec (.waitComplete addr arg) s = .next t
      ∧ t.host.status.ok = true ∧ t.host.status.err = .noError ∧ t.host.status.done = true ∧ t.host.status.busy = false
      ∧ t.host.result = 0#32 ∧ t.host.raw = 0#16 ∧ 1 ≤ t.host.polls.toNat ∧ t.host.polls.toNat ≤ 100
      ∧ t.env.traffic.getLast?.map Transaction.status = some t.host.status.busst
      ∧ (t.host.status.pexh = true ↔ t.host.status.busst ≠ .ok) ∧ (t.host.status.pexh = true → t.host.polls = 100#8)

/-- The bus traffic of each command (R154), on every device that answers. -/
def Obligations.BusTrafficOfEachCommand : Prop :=
  ∀ (s : State) (addr : Half) (arg : Word), s.host.status.busy = false → s.params.device ≠ .silent →
    (∃ t, exec (.encodeTemp addr arg) s = .next t ∧ t.env.traffic = [])
    ∧ (∃ t, exec (.decodeCode addr arg) s = .next t ∧ t.env.traffic = [])
    ∧ (∃ t, execIllegal arg (commandWord addr 0#4) s = .next t ∧ t.env.traffic = [])
    ∧ (∃ t, exec (.waitComplete addr arg) s = .next t ∧ isPollTraffic s.params.devAddr t.host.polls.toNat t.env.traffic)
    ∧ (∃ t, exec (.readData addr arg) s = .next t
        ∧ (32767 ≤ addr.toNat → t.env.traffic = [])
        ∧ (addr.toNat ≤ 32766 → ∃ st, t.env.traffic = [⟨readBackRequest s.params.devAddr addr, st⟩]))
    ∧ (∃ t, exec (.logData addr arg) s = .next t
        ∧ (¬ acceptedAddress addr → t.env.traffic = [])
        ∧ (acceptedAddress addr → ∃ st rest,
            t.env.traffic = ⟨dataWriteRequest s.params.devAddr addr (enc arg), st⟩ :: rest
            ∧ (st ≠ .ok → rest = []) ∧ (st = .ok → isPollTraffic s.params.devAddr t.host.polls.toNat rest)))

/-- The three requests the sequencer issues, by their own kind, device, bytes and read length, have the headers of R98. -/
def Obligations.SequencerRequestHeaders : Prop :=
  ∀ (d : BitVec 7) (a c : Half),
    encode (instrOfRequest (probeRequest d)) = .b (d.setWidth 32 <<< 2) []
    ∧ encode (instrOfRequest (dataWriteRequest d a c))
        = .b (0x00040000#32 ||| d.setWidth 32 <<< 2)
            [BitVec.ofNat 8 (a.toNat / 256), BitVec.ofNat 8 a.toNat, BitVec.ofNat 8 (c.toNat / 256), BitVec.ofNat 8 c.toNat]
    ∧ encode (instrOfRequest (readBackRequest d a))
        = .b (0x02020002#32 ||| d.setWidth 32 <<< 2) [BitVec.ofNat 8 (a.toNat / 256), BitVec.ofNat 8 a.toNat]

/-- Termination (R156): on a device that answers, every command finishes, after at most 101 transactions, for every sequence
of responses. -/
def Obligations.EveryCommandFinishes : Prop :=
  ∀ (i : Instr) (s : State), i.isCommand → s.host.status.busy = false → s.params.device ≠ .silent →
    ∃ t, exec i s = .next t ∧ t.seqr.seq = .idle ∧ t.host.status.busy = false ∧ t.host.status.done = true
      ∧ t.env.traffic.length ≤ 101

/-- A running command finishes too (R155, R156): from every state that meets the invariant, on a device that answers, at most
202 steps of the sequencer bring it to its `finish`. -/
def Obligations.EveryRunningCommandFinishes : Prop :=
  ∀ s : State, s.Inv → s.params.device ≠ .silent → s.seqr.seq ≠ .idle →
    (runSeq longestCommand s).seqr.seq = .idle ∧ (runSeq longestCommand s).host.status.done = true

/-- A device that never answers (93_implementation_defined.md I17, log 8): the command waits in its first `xfer` step and is not
finished. What needs no device still finishes: ENCODE, DECODE, and the checks of an address. -/
def Obligations.SilentDeviceKeepsTheCommandWaiting : Prop :=
  ∀ (s : State) (addr : Half) (arg : Word), s.host.status.busy = false → s.params.device = .silent →
    (∀ i : Instr, (i = .waitComplete addr arg ∨ (i = .readData addr arg ∧ addr.toNat ≤ 32766)
        ∨ (i = .logData addr arg ∧ acceptedAddress addr)) →
      ∃ t, exec i s = .next t ∧ t.host.status.busy = true ∧ t.host.status.done = false ∧ t.seqr.seq ≠ .idle
        ∧ seqStep t = t ∧ t.sim = s.sim ∧ t.env.traffic = [] ∧ t.host.polls = 0#8 ∧ t.host.result = s.host.result)
    ∧ ∀ i : Instr, (i = .encodeTemp addr arg ∨ i = .decodeCode addr arg ∨ (i = .readData addr arg ∧ 32767 ≤ addr.toNat)
        ∨ (i = .logData addr arg ∧ ¬ acceptedAddress addr)) →
      ∃ t, exec i s = .next t ∧ t.host.status.busy = false ∧ t.host.status.done = true ∧ t.seqr.seq = .idle
        ∧ t.sim = s.sim ∧ t.env.traffic = []

/-- The frame of the host commands: parameters, pending events and the latched answers never change; a simulator that is not
on the bus does not change; the real device's answers are untouched while the simulator is on the bus; and no byte of the
simulator changes but the two LOG_DATA stores to, at the address its payload gives. That only LOG_DATA writes TX is log 15, and
that a command gives a next state on a device that never answers is log 8. -/
def Obligations.HostCommandFrame : Prop :=
  ∀ (i : Instr) (s : State), i.isCommand →
    ∃ t, exec i s = .next t
      ∧ t.params = s.params ∧ t.env.inputs = s.env.inputs ∧ t.env.hostOut = s.env.hostOut
      ∧ t.env.busOut = s.env.busOut ∧ t.env.ctlOut = s.env.ctlOut
      ∧ (s.params.device ≠ .simulator → t.sim = s.sim)
      ∧ (s.params.device ≠ .real → t.env.oracle = s.env.oracle ∧ t.env.draws = s.env.draws)
      ∧ (∀ x : Nat, (∀ a f, i = .logData a f →
            x ≠ writeAddress (logPayload a (enc f)).bytes ∧ x ≠ writeAddress (logPayload a (enc f)).bytes + 1) →
          t.sim.mem.read x = s.sim.mem.read x)
      ∧ ((∀ a f, i ≠ .readData a f) → t.sim.ptr = s.sim.ptr ∧ t.seqr.rx = s.seqr.rx)
      ∧ ((∀ a f, i ≠ .logData a f) → t.seqr.tx = s.seqr.tx)

/-- Persistence (W5, R73, R80): after LOG_DATA at `a` against an idle simulator with `T ≤ 99`, READ_DATA at `a` returns the
stored sample with OK; and a read at any slot that does not overlap it returns what it returned before. -/
def Obligations.LoggedSampleReadsBack : Prop :=
  ∀ (s : State) (a : Half) (f : Word) (arg : Word), s.host.status.busy = false → acceptedAddress a →
    s.params.device = .simulator → s.sim.busyf = false → s.sim.mem.wf → 1 ≤ s.params.threshold →
    s.params.threshold ≤ 99 →
    ∃ t u, exec (.logData a f) s = .next t ∧ exec (.readData a arg) t = .next u
      ∧ u.host.status.ok = true ∧ u.host.result = dec (enc f) ∧ u.host.raw = enc f
      ∧ ∀ b : Half, b.toNat ≤ 32766 → (b.toNat + 2 ≤ a.toNat ∨ a.toNat + 2 ≤ b.toNat) →
          ∃ before after, exec (.readData b arg) s = .next before ∧ exec (.readData b arg) t = .next after
            ∧ after.host.result = before.host.result ∧ after.host.raw = before.host.raw ∧ after.host.status.ok = true

/-- No state across commands (R33, R30): what a command leaves in the host registers, the device and the traffic depends on
its word, the parameters and the device alone, not on what any register held before. -/
def Obligations.CommandsForgetEarlierRegisters : Prop :=
  ∀ (i : Instr) (s1 s2 : State), i.isCommand → s1.host.status.busy = false → s2.host.status.busy = false →
    s1.params = s2.params → s1.params.device ≠ .silent → s1.sim = s2.sim → s1.env.oracle = s2.env.oracle →
    s1.env.draws = s2.env.draws →
    ∃ t1 t2, exec i s1 = .next t1 ∧ exec i s2 = .next t2
      ∧ t1.host = t2.host ∧ t1.sim = t2.sim ∧ t1.env.oracle = t2.env.oracle ∧ t1.env.draws = t2.env.draws
      ∧ t1.env.traffic = t2.env.traffic

/-! Bus requests of a testbench. -/

/-- Any WRITE or READ, and the write phase of a WRITEREAD, that meets a busy simulator (R182, R189): one more request counted,
the busy period over when the count reaches `T`, NotAcknowledged either way; MEM and PTR unchanged. -/
def Obligations.BusySimulatorDoesNotAcknowledge : Prop :=
  ∀ (s : State) (dev : BitVec 7) (x n : Byte) (tx : List Byte) (i : Instr),
    (i = .busWrite dev x tx ∨ i = .busRead dev x n ∨ i = .busWriteRead dev tx n) →
    s.params.device = .simulator → s.sim.busyf = true →
    exec i s = .next
      { s with
        sim := if s.params.threshold ≤ s.sim.bcnt.toNat + 1 then { s.sim with busyf := false, bcnt := 0#16 }
               else { s.sim with bcnt := s.sim.bcnt + 1#16 }
        env := { s.env with busOut := some ⟨.notAcknowledged, []⟩ } }

/-- A WRITE that finds the simulator idle, by its length: R183, R184, R185, R186. -/
def Obligations.IdleSimulatorTakesAWrite : Prop :=
  ∀ (s : State) (dev : BitVec 7) (rx : Byte), s.params.device = .simulator → s.sim.busyf = false →
    (exec (.busWrite dev rx []) s = .next { s with env := { s.env with busOut := some ⟨.ok, []⟩ } })
    ∧ (∀ x, exec (.busWrite dev rx [x]) s = .next { s with env := { s.env with busOut := some ⟨.ok, []⟩ } })
    ∧ (∀ x y, exec (.busWrite dev rx [x, y]) s
        = .next { s with sim := { s.sim with ptr := x ++ y }, env := { s.env with busOut := some ⟨.ok, []⟩ } })
    ∧ (∀ x y data, data ≠ [] → 32768 < x.toNat * 256 + y.toNat + data.length →
        exec (.busWrite dev rx (x :: y :: data)) s
          = .next { s with env := { s.env with busOut := some ⟨.generalError, []⟩ } })
    ∧ (∀ x y data, data ≠ [] → x.toNat * 256 + y.toNat + data.length ≤ 32768 →
        exec (.busWrite dev rx (x :: y :: data)) s
          = .next
            { s with
              sim := { mem := s.sim.mem.writeBytes (x.toNat * 256 + y.toNat) data, busyf := true, bcnt := 0#16,
                       ptr := s.sim.ptr }
              env := { s.env with busOut := some ⟨.ok, []⟩ } })

/-- The bytes of MEM after a BUS_WRITE, on every device and in every state (R186, R199): the data bytes, in a line, where the
write was stored; every other byte as before. -/
def Obligations.BusWriteStoresItsBytesOnly : Prop :=
  ∀ (s : State) (dev : BitVec 7) (rx : Byte) (tx : List Byte), ∃ t, exec (.busWrite dev rx tx) s = .next t
    ∧ (∀ x : Nat, ¬ (writeAddress tx ≤ x ∧ x < writeAddress tx + (writeData tx).length) →
        t.sim.mem.read x = s.sim.mem.read x)
    ∧ (∀ k, k < (writeData tx).length → s.params.device = .simulator → s.sim.busyf = false → s.sim.mem.wf →
        writeAddress tx + (writeData tx).length ≤ Config.capacity →
        t.sim.mem.read (writeAddress tx + k) = (writeData tx).getD k 0#8)
    ∧ ((tx.length ≤ 2 ∨ s.params.device ≠ .simulator ∨ s.sim.busyf = true
          ∨ Config.capacity < writeAddress tx + (writeData tx).length) → t.sim.mem = s.sim.mem)

/-- A READ that finds the simulator idle (R187): the bytes from PTR, or GeneralError past the end; nothing else changes. -/
def Obligations.IdleSimulatorAnswersARead : Prop :=
  ∀ (s : State) (dev : BitVec 7) (x n : Byte), s.params.device = .simulator → s.sim.busyf = false →
    (s.sim.ptr.toNat + n.toNat ≤ 32768 →
      exec (.busRead dev x n) s = .next
        { s with env := { s.env with
            busOut := some ⟨.ok, (List.range n.toNat).map fun k => s.sim.mem.read (s.sim.ptr.toNat + k)⟩ } })
    ∧ (32768 < s.sim.ptr.toNat + n.toNat →
      exec (.busRead dev x n) s = .next { s with env := { s.env with busOut := some ⟨.generalError, []⟩ } })

/-- A WRITEREAD at the simulator (R189) is its write phase and then, if that was Ok, its read phase, in one step. On an idle
simulator: one whose write phase is an address reads from that address (R185, R187); one whose write phase is a data write
gets NotAcknowledged from the busy period it started. -/
def Obligations.WriteReadIsAWriteThenARead : Prop :=
  ∀ (s : State) (dev : BitVec 7) (n : Byte), s.params.device = .simulator →
    (∀ tx : List Byte, ∃ t r, exec (.busWrite dev 0#8 tx) s = .next t ∧ t.env.busOut = some r
      ∧ (r.status ≠ .ok → exec (.busWriteRead dev tx n) s = .next t)
      ∧ (r.status = .ok → ∃ u, exec (.busRead dev 0#8 n) t = .next u ∧ exec (.busWriteRead dev tx n) s = .next u))
    ∧ ∀ x y : Byte, s.sim.busyf = false →
      (x.toNat * 256 + y.toNat + n.toNat ≤ 32768 →
        exec (.busWriteRead dev [x, y] n) s = .next
          { s with
            sim := { s.sim with ptr := x ++ y }
            env := { s.env with
              busOut := some ⟨.ok, (List.range n.toNat).map fun k => s.sim.mem.read (x.toNat * 256 + y.toNat + k)⟩ } })
      ∧ (32768 < x.toNat * 256 + y.toNat + n.toNat →
        exec (.busWriteRead dev [x, y] n) s = .next
          { s with sim := { s.sim with ptr := x ++ y }, env := { s.env with busOut := some ⟨.generalError, []⟩ } })
      ∧ (∀ data, data ≠ [] → x.toNat * 256 + y.toNat + data.length ≤ 32768 → 2 ≤ s.params.threshold →
        exec (.busWriteRead dev (x :: y :: data) n) s = .next
          { s with
            sim := { mem := s.sim.mem.writeBytes (x.toNat * 256 + y.toNat) data, busyf := true, bcnt := 1#16,
                     ptr := s.sim.ptr }
            env := { s.env with busOut := some ⟨.notAcknowledged, []⟩ } })

/-- The frame of the bus requests: no host register, no element of the sequencer and no parameter changes; a read changes no
byte and not PTR; the simulator changes only when it is the device, the real device's answers only when that is; and the
busy pair changes only as R182 and R186 say. That a device that never answers leaves no answer in the latch is log 8. -/
def Obligations.BusRequestFrame : Prop :=
  ∀ (s : State) (dev : BitVec 7) (x n : Byte) (tx : List Byte) (i : Instr),
    (i = .busWrite dev x tx ∨ i = .busRead dev x n ∨ i = .busWriteRead dev tx n) →
    ∃ t, exec i s = .next t ∧ t.host = s.host ∧ t.seqr = s.seqr ∧ t.params = s.params
      ∧ t.env.inputs = s.env.inputs ∧ t.env.traffic = s.env.traffic ∧ t.env.hostOut = s.env.hostOut
      ∧ t.env.ctlOut = s.env.ctlOut
      ∧ (s.params.device ≠ .simulator → t.sim = s.sim)
      ∧ (s.params.device ≠ .real → t.env.oracle = s.env.oracle ∧ t.env.draws = s.env.draws)
      ∧ (s.params.device = .silent → t.env.busOut = none)
      ∧ (i = .busRead dev x n → t.sim.mem = s.sim.mem ∧ t.sim.ptr = s.sim.ptr)
      ∧ (tx.length ≠ 2 → t.sim.ptr = s.sim.ptr)
      ∧ (s.params.device = .simulator → s.sim.busyf = true →
          (t.sim.busyf, t.sim.bcnt) = busyPairAfter s.params.threshold s.sim)
      ∧ (s.params.device = .simulator → s.sim.busyf = false → storesData tx →
          (i = .busWrite dev x tx → (t.sim.busyf, t.sim.bcnt) = (true, 0#16))
          ∧ (i = .busWriteRead dev tx n →
              (t.sim.busyf, t.sim.bcnt) = if s.params.threshold ≤ 1 then (false, 0#16) else (true, 1#16)))
      ∧ (s.sim.busyf = false → (i = .busRead dev x n ∨ ¬ storesData tx) →
          t.sim.busyf = s.sim.busyf ∧ t.sim.bcnt = s.sim.bcnt)
      ∧ (∀ a : Nat, ¬ (writeAddress tx ≤ a ∧ a < writeAddress tx + (writeData tx).length) →
          t.sim.mem.read a = s.sim.mem.read a)

/-- The statuses the simulator produces (R196): NotAcknowledged exactly for a request that meets it busy, at its start or in
its read phase; GeneralError exactly for a bounds failure or a reserved request; never Timeout. -/
def Obligations.StatusesOfTheSimulator : Prop :=
  ∀ (T : Nat) (q : BusRequest) (m : Simulator),
    (onBus T q m).1.status ≠ .timeout
    ∧ ((onBus T q m).1.status = .notAcknowledged ↔
        m.busyf = true ∨ (q.kind = .writeRead ∧ 3 ≤ q.tx.length
          ∧ writeAddress q.tx + (writeData q.tx).length ≤ Config.capacity))
    ∧ ((onBus T q m).1.status = .generalError ↔
        m.busyf = false ∧
          ((q.kind ≠ .read ∧ 3 ≤ q.tx.length ∧ Config.capacity < writeAddress q.tx + (writeData q.tx).length)
          ∨ (q.kind = .read ∧ Config.capacity < m.ptr.toNat + q.rxlen)
          ∨ (q.kind = .writeRead ∧ q.tx.length < 2 ∧ Config.capacity < m.ptr.toNat + q.rxlen)
          ∨ (q.kind = .writeRead ∧ q.tx.length = 2 ∧ Config.capacity < writeAddress q.tx + q.rxlen)))
    ∧ (reservedRequest m).1.status = .generalError

/-- A real device's answers (R86, R99): its next answer, whatever status it has, with exactly the asked number of data bytes
on an Ok read phase and none otherwise. -/
def Obligations.RealDeviceAnswersAsDrawn : Prop :=
  ∀ (s : State) (dev : BitVec 7) (x n : Byte) (tx : List Byte) (a : BusResponse) (rest : List BusResponse) (i : Instr),
    s.params.device = .real → s.env.oracle = a :: rest →
    (i = .busWrite dev x tx →
      exec i s = .next { s with env := { s.env with
        oracle := rest, draws := s.env.draws + 1, busOut := some ⟨a.status, []⟩ } })
    ∧ (i = .busRead dev x n ∨ i = .busWriteRead dev tx n → a.data.length = n.toNat →
      exec i s = .next { s with env := { s.env with
        oracle := rest, draws := s.env.draws + 1, busOut := some ⟨a.status, if a.status = .ok then a.data else []⟩ } })

/-! Simulator control words. -/

/-- SIM_RESET (R188), with the simulator as the device: every byte 0xFF, idle, BCNT and PTR 0; SERR and SVAL 0; nothing else changes. -/
def Obligations.SimResetRestoresTheInitialState : Prop :=
  ∀ (s : State) (index : Half), s.params.device = .simulator → ∃ t, exec (.simReset index) s = .next t
    ∧ (∀ a, t.sim.mem.read a = 0xFF#8) ∧ t.sim.busyf = false ∧ t.sim.bcnt = 0#16 ∧ t.sim.ptr = 0#16
    ∧ t = { s with sim := t.sim, env := { s.env with ctlOut := ⟨false, 0#32⟩ } }

/-- SIM_PEEK, SIM_GET_BUSY and SIM_GET_COUNT (R191, R192, R193), with the simulator as the device: the byte at INDEX, or SERR = 1
where there is none; the busy flag; the busy counter; no side effect. -/
def Obligations.SimIntrospectionHasNoSideEffect : Prop :=
  ∀ (s : State) (index : Half), s.params.device = .simulator →
    (index.toNat < 32768 → exec (.simPeek index) s
      = .next { s with env := { s.env with ctlOut := ⟨false, BitVec.ofNat 32 (s.sim.mem.read index.toNat).toNat⟩ } })
    ∧ (32768 ≤ index.toNat → exec (.simPeek index) s
      = .next { s with env := { s.env with ctlOut := ⟨true, 0#32⟩ } })
    ∧ exec (.simGetBusy index) s
      = .next { s with env := { s.env with ctlOut := ⟨false, BitVec.ofNat 32 s.sim.busyf.toNat⟩ } }
    ∧ exec (.simGetCount index) s
      = .next { s with env := { s.env with ctlOut := ⟨false, BitVec.ofNat 32 s.sim.bcnt.toNat⟩ } }

/-! The whole machine. -/

/-- The state after reset meets the invariant. -/
def Obligations.ResetMeetsTheInvariant : Prop := State.reset.Inv

/-- Every step keeps the invariant (R195, R30, R61, R78, R98, R221): from every state that meets it, whatever event comes. -/
def Obligations.StepKeepsTheInvariant : Prop :=
  ∀ s t : State, s.Inv → step s = .next t → t.Inv

/-- No step changes a parameter (R38), and every step takes exactly one event off the list, if there is one (R79, R227). -/
def Obligations.StepKeepsTheParameters : Prop :=
  ∀ s t : State, step s = .next t → t.params = s.params ∧ t.env.inputs = s.env.inputs.tail

/-- The machine never stops on an event the block admits (R220): no command, bus request, control word, register access or
reset halts it, in any state. -/
def Obligations.AdmittedEventsNeverStop : Prop :=
  ∀ s : State, (∀ e rest, s.env.inputs = e :: rest → admitted e) → ∃ t, step s = .next t

/-- RESULT and RAW change only at `finish`, or at a reset (R27, R28): where a step changes one of them, it was a step of a running
command, or a command packet while none ran (log 1), and it ended with that command finished. -/
def Obligations.ResultChangesOnlyAtFinish : Prop :=
  ∀ s t : State, step s = .next t → (t.host.result ≠ s.host.result ∨ t.host.raw ≠ s.host.raw) →
    (∃ rest, s.env.inputs = .blockReset :: rest) ∨ (∃ rest, s.env.inputs = .powerUp :: rest)
    ∨ ((((s.env.inputs = [] ∨ ∃ rest, s.env.inputs = .sequencer :: rest) ∧ s.seqr.seq ≠ .idle)
        ∨ ∃ arg cmd rest, s.env.inputs = .packet (.h arg cmd) :: rest ∧ s.host.status.busy = false)
      ∧ t.host.status.done = true ∧ t.host.status.busy = false ∧ t.seqr.seq = .idle)

/-- The control words on any device (log 14, the model's choice): each one, reserved words too, does and answers what it does
with the simulator as the device. -/
def Obligations.ControlWordsAnswerOnAnyDevice : Prop :=
  ∀ (s : State) (d : DeviceKind) (w : Word) (rest : List Input), s.env.inputs = .packet (.s w) :: rest →
    ∃ t, step s = .next t
      ∧ step { s with params := { s.params with device := d } }
          = .next { t with params := { s.params with device := d } }
end

