-- ==== Sys2Proof/Laws/Decode.lean ====
section
/-! SUPPORT. The bit fields of an encoded word, as numbers and as what the encoder put there. -/

namespace Sys2Proof

/-! Fields as numbers. -/

theorem opField_toNat (w : Word) : (opField w).toNat = w.toNat % 16 := by
  simp [opField, BitVec.extractLsb'_toNat]

theorem rsvField_toNat (w : Word) : (rsvField w).toNat = w.toNat / 16 % 4096 := by
  simp [rsvField, BitVec.extractLsb'_toNat, Nat.shiftRight_eq_div_pow]

theorem addrField_eq (w : Word) : addrField w = BitVec.ofNat 16 (w.toNat / 65536) := by
  apply BitVec.eq_of_toNat_eq
  simp [addrField, BitVec.extractLsb'_toNat, Nat.shiftRight_eq_div_pow]

theorem opField_eq (w : Word) : opField w = BitVec.ofNat 4 w.toNat := by
  apply BitVec.eq_of_toNat_eq
  simp [opField_toNat]

theorem kindField_toNat (q : Word) : (kindField q).toNat = q.toNat % 4 := by
  simp [kindField, BitVec.extractLsb'_toNat]

theorem devField_eq (q : Word) : devField q = BitVec.ofNat 7 (q.toNat / 4) := by
  apply BitVec.eq_of_toNat_eq
  simp [devField, BitVec.extractLsb'_toNat, Nat.shiftRight_eq_div_pow]

theorem busRsvField_toNat (q : Word) : (busRsvField q).toNat = q.toNat / 512 % 128 := by
  simp [busRsvField, BitVec.extractLsb'_toNat, Nat.shiftRight_eq_div_pow]

theorem txlenField_eq (q : Word) : txlenField q = BitVec.ofNat 8 (q.toNat / 65536) := by
  apply BitVec.eq_of_toNat_eq
  simp [txlenField, BitVec.extractLsb'_toNat, Nat.shiftRight_eq_div_pow]

theorem rxlenField_eq (q : Word) : rxlenField q = BitVec.ofNat 8 (q.toNat / 2 ^ 24) := by
  apply BitVec.eq_of_toNat_eq
  simp [rxlenField, BitVec.extractLsb'_toNat, Nat.shiftRight_eq_div_pow]

/-! A field's value as a condition on the word. -/

theorem opField_eq_iff (w : Word) (k : Nat) (hk : k < 16) : opField w = BitVec.ofNat 4 k ↔ w.toNat % 16 = k := by
  rw [← BitVec.toNat_inj, opField_toNat, BitVec.toNat_ofNat]; omega

theorem rsvField_eq_zero_iff (w : Word) : rsvField w = 0#12 ↔ w.toNat / 16 % 4096 = 0 := by
  rw [← BitVec.toNat_inj, rsvField_toNat, BitVec.toNat_ofNat]

theorem kindField_eq_iff (q : Word) (k : Nat) (hk : k < 4) : kindField q = BitVec.ofNat 2 k ↔ q.toNat % 4 = k := by
  rw [← BitVec.toNat_inj, kindField_toNat, BitVec.toNat_ofNat]; omega

theorem busRsvField_eq_zero_iff (q : Word) : busRsvField q = 0#7 ↔ q.toNat / 512 % 128 = 0 := by
  rw [← BitVec.toNat_inj, busRsvField_toNat, BitVec.toNat_ofNat]

/-! Encoded words as numbers, and their fields back. -/

theorem append_toNat {n m : Nat} (x : BitVec n) (y : BitVec m) : (x ++ y).toNat = x.toNat * 2 ^ m + y.toNat := by
  rw [BitVec.toNat_append, ← Nat.shiftLeft_add_eq_or_of_lt y.isLt, Nat.shiftLeft_eq]

theorem commandWord_toNat (a : Half) (op : BitVec 4) : (commandWord a op).toNat = a.toNat * 65536 + op.toNat := by
  have h : (commandWord a op).toNat = a.toNat * 2 ^ 16 + ((0#12).toNat * 2 ^ 4 + op.toNat) := by
    rw [← append_toNat 0#12 op]; exact append_toNat a (0#12 ++ op)
  simpa using h

theorem busHeader_toNat (k : BitVec 2) (d : BitVec 7) (t r : Byte) :
    (busHeader k d t r).toNat = r.toNat * 2 ^ 24 + t.toNat * 65536 + d.toNat * 4 + k.toNat := by
  have h : (busHeader k d t r).toNat
      = r.toNat * 2 ^ 24 + (t.toNat * 2 ^ 16 + ((0#7).toNat * 2 ^ 9 + (d.toNat * 2 ^ 2 + k.toNat))) := by
    rw [← append_toNat d k, ← append_toNat 0#7 (d ++ k), ← append_toNat t (0#7 ++ (d ++ k))]
    exact append_toNat r (t ++ (0#7 ++ (d ++ k)))
  rw [h]; simp; omega

theorem commandWord_eq_ofNat (a : Half) (op : BitVec 4) :
    commandWord a op = BitVec.ofNat 32 (a.toNat * 65536 + op.toNat) := by
  apply BitVec.eq_of_toNat_eq
  have := op.isLt
  have := a.isLt
  rw [commandWord_toNat, BitVec.toNat_ofNat]; omega

theorem busHeader_eq_ofNat (k : BitVec 2) (d : BitVec 7) (t r : Byte) :
    busHeader k d t r = BitVec.ofNat 32 (r.toNat * 2 ^ 24 + t.toNat * 65536 + d.toNat * 4 + k.toNat) := by
  apply BitVec.eq_of_toNat_eq
  have := k.isLt
  have := d.isLt
  have := t.isLt
  have := r.isLt
  rw [busHeader_toNat, BitVec.toNat_ofNat]; omega

@[simp] theorem opField_commandWord (a : Half) (op : BitVec 4) : opField (commandWord a op) = op := by
  apply BitVec.eq_of_toNat_eq
  have := op.isLt
  rw [opField_toNat, commandWord_toNat]; omega

@[simp] theorem rsvField_commandWord (a : Half) (op : BitVec 4) : rsvField (commandWord a op) = 0#12 := by
  apply BitVec.eq_of_toNat_eq
  have := op.isLt
  rw [rsvField_toNat, commandWord_toNat, BitVec.toNat_ofNat]; omega

@[simp] theorem addrField_commandWord (a : Half) (op : BitVec 4) : addrField (commandWord a op) = a := by
  apply BitVec.eq_of_toNat_eq
  have := op.isLt
  have := a.isLt
  rw [addrField_eq, commandWord_toNat, BitVec.toNat_ofNat]; omega

@[simp] theorem kindField_busHeader (k : BitVec 2) (d : BitVec 7) (t r : Byte) : kindField (busHeader k d t r) = k := by
  apply BitVec.eq_of_toNat_eq
  have := k.isLt
  rw [kindField_toNat, busHeader_toNat]; omega

@[simp] theorem devField_busHeader (k : BitVec 2) (d : BitVec 7) (t r : Byte) : devField (busHeader k d t r) = d := by
  apply BitVec.eq_of_toNat_eq
  have := k.isLt
  have := d.isLt
  rw [devField_eq, busHeader_toNat, BitVec.toNat_ofNat]; omega

@[simp] theorem busRsvField_busHeader (k : BitVec 2) (d : BitVec 7) (t r : Byte) :
    busRsvField (busHeader k d t r) = 0#7 := by
  apply BitVec.eq_of_toNat_eq
  have := k.isLt
  have := d.isLt
  rw [busRsvField_toNat, busHeader_toNat, BitVec.toNat_ofNat]; omega

@[simp] theorem txlenField_busHeader (k : BitVec 2) (d : BitVec 7) (t r : Byte) : txlenField (busHeader k d t r) = t := by
  apply BitVec.eq_of_toNat_eq
  have := k.isLt
  have := d.isLt
  have := t.isLt
  rw [txlenField_eq, busHeader_toNat, BitVec.toNat_ofNat]; omega

@[simp] theorem rxlenField_busHeader (k : BitVec 2) (d : BitVec 7) (t r : Byte) : rxlenField (busHeader k d t r) = r := by
  apply BitVec.eq_of_toNat_eq
  have := k.isLt
  have := d.isLt
  have := t.isLt
  have := r.isLt
  rw [rxlenField_eq, busHeader_toNat, BitVec.toNat_ofNat]; omega

/-! A word put together from its own fields. -/

theorem commandWord_fields {w : Word} (h : rsvField w = 0#12) : commandWord (addrField w) (opField w) = w := by
  apply BitVec.eq_of_toNat_eq
  have h' := congrArg BitVec.toNat h
  rw [rsvField_toNat, BitVec.toNat_ofNat] at h'
  have := w.isLt
  rw [commandWord_toNat, opField_toNat, addrField_eq, BitVec.toNat_ofNat]; omega

theorem busHeader_fields {q : Word} (h : busRsvField q = 0#7) :
    busHeader (kindField q) (devField q) (txlenField q) (rxlenField q) = q := by
  apply BitVec.eq_of_toNat_eq
  have h' := congrArg BitVec.toNat h
  rw [busRsvField_toNat, BitVec.toNat_ofNat] at h'
  have := q.isLt
  rw [busHeader_toNat, kindField_toNat, devField_eq, txlenField_eq, rxlenField_eq]
  simp only [BitVec.toNat_ofNat]; omega

/-! Byte order. -/

theorem hiByte_toNat (v : Half) : (hiByte v).toNat = v.toNat / 256 := by
  have := v.isLt
  simp [hiByte, BitVec.extractLsb'_toNat, Nat.shiftRight_eq_div_pow]; omega

theorem loByte_toNat (v : Half) : (loByte v).toNat = v.toNat % 256 := by
  simp [loByte, BitVec.extractLsb'_toNat]

theorem joinBytes_toNat (x y : Byte) : (joinBytes x y).toNat = x.toNat * 256 + y.toNat := append_toNat x y

@[simp] theorem joinBytes_hi_lo (v : Half) : joinBytes (hiByte v) (loByte v) = v := by
  apply BitVec.eq_of_toNat_eq
  rw [joinBytes_toNat, hiByte_toNat, loByte_toNat]; omega

@[simp] theorem hiByte_joinBytes (x y : Byte) : hiByte (joinBytes x y) = x := by
  apply BitVec.eq_of_toNat_eq
  have := y.isLt
  rw [hiByte_toNat, joinBytes_toNat]; omega

@[simp] theorem loByte_joinBytes (x y : Byte) : loByte (joinBytes x y) = y := by
  apply BitVec.eq_of_toNat_eq
  have := y.isLt
  rw [loByte_toNat, joinBytes_toNat]; omega

end Sys2Proof
end

