-- ==== Sys2Proof/Laws/Memory.lean ====
section
/-! SUPPORT. The laws of byte memory: read after write, and the canonical form every memory operation keeps. -/

namespace Sys2Proof.Machine

@[simp] theorem Memory.read_nil (x : Nat) : Memory.read [] x = Config.erasedFill := rfl

@[simp] theorem Memory.wf_nil : Memory.wf [] := by simp [Memory.wf]

@[simp] theorem Memory.inCapacity_nil : Memory.inCapacity [] := by simp [Memory.inCapacity]

/-- An address below every listed one reads as unlisted. -/
theorem Memory.read_of_below {m : Memory} {x : Nat} (h : ∀ c ∈ m, x < c.1) : m.read x = Config.erasedFill := by
  induction m with
  | nil => rfl
  | cons c rest ih =>
    have hc := h c (List.mem_cons_self)
    simp [Memory.read, Nat.ne_of_lt hc, ih fun d hd => h d (List.mem_cons_of_mem _ hd)]

/-- A listed address after a write was listed before, or is the one written. -/
theorem Memory.mem_write {m : Memory} {x : Nat} {v : Byte} {c : Host.Cell} (h : c ∈ m.write x v) :
    c ∈ m ∨ (c = (x, v) ∧ v ≠ Config.erasedFill) := by
  induction m with
  | nil =>
    simp only [Memory.write] at h
    split at h <;> simp_all
  | cons d rest ih =>
    simp only [Memory.write] at h
    split at h
    · split at h <;> simp_all
      tauto
    · split at h
      · split at h <;> simp_all
        tauto
      · rcases List.mem_cons.mp h with h | h
        · exact .inl (h ▸ List.mem_cons_self)
        · exact (ih h).imp (List.mem_cons_of_mem _) id

/-- A write keeps the canonical form. -/
theorem Memory.write_wf {m : Memory} (x : Nat) (v : Byte) (h : m.wf) : (m.write x v).wf := by
  refine ⟨?_, fun c hc => (Memory.mem_write hc).elim (h.2 c) fun ⟨e, hv⟩ => e ▸ hv⟩
  replace h := h.1
  induction m with
  | nil => simp only [Memory.write]; split <;> simp
  | cons d rest ih =>
    obtain ⟨hd, hr⟩ := List.pairwise_cons.mp h
    simp only [Memory.write]
    split
    · split
      · exact h
      · refine List.pairwise_cons.mpr ⟨fun c hc => ?_, h⟩
        rcases List.mem_cons.mp hc with rfl | hc
        · assumption
        · exact Nat.lt_trans ‹_› (hd c hc)
    · split
      · split
        · exact hr
        · subst x; exact List.pairwise_cons.mpr ⟨hd, hr⟩
      · refine List.pairwise_cons.mpr ⟨fun c hc => ?_, ih hr⟩
        rcases Memory.mem_write hc with hc | ⟨rfl, -⟩
        · exact hd c hc
        · exact lt_of_le_of_ne (Nat.le_of_not_lt ‹_›) (Ne.symm ‹_›)

/-- A write below the capacity keeps the memory within it. -/
theorem Memory.write_inCapacity {m : Memory} {x : Nat} (v : Byte) (h : m.inCapacity) (hx : x < Config.capacity) :
    (m.write x v).inCapacity :=
  fun c hc => (Memory.mem_write hc).elim (h c) fun ⟨e, _⟩ => e ▸ hx

/-- Reading the byte just written. -/
theorem Memory.read_write_same {m : Memory} (x : Nat) (v : Byte) (h : m.wf) : (m.write x v).read x = v := by
  replace h := h.1
  induction m with
  | nil => simp only [Memory.write]; split <;> simp_all [Memory.read]
  | cons d rest ih =>
    obtain ⟨hd, hr⟩ := List.pairwise_cons.mp h
    have hfill : v = Config.erasedFill → ∀ n : Memory, (∀ c ∈ n, x < c.1) → n.read x = v :=
      fun hv n hn => hv ▸ Memory.read_of_below hn
    simp only [Memory.write]
    split
    · rename_i hlt
      split
      · refine hfill ‹_› _ fun c hc => ?_
        rcases List.mem_cons.mp hc with rfl | hc
        · exact hlt
        · exact Nat.lt_trans hlt (hd c hc)
      · simp [Memory.read]
    · split
      · rename_i heq
        split
        · exact hfill ‹_› _ fun c hc => heq ▸ hd c hc
        · simp [Memory.read]
      · rename_i hne
        simp [Memory.read, hne, ih hr]

/-- Every other byte reads as before a write. -/
theorem Memory.read_write_other {m : Memory} {x y : Nat} (v : Byte) (h : y ≠ x) : (m.write x v).read y = m.read y := by
  induction m with
  | nil => simp only [Memory.write]; split <;> simp [Memory.read, h]
  | cons d rest ih =>
    simp only [Memory.write]
    split
    · split <;> simp [Memory.read, h]
    · split
      · subst x; split <;> simp [Memory.read, h]
      · simp [Memory.read, ih]

@[simp] theorem Memory.writeBytes_nil (m : Memory) (a : Nat) : m.writeBytes a [] = m := rfl

@[simp] theorem Memory.writeBytes_cons (m : Memory) (a : Nat) (v : Byte) (vs : List Byte) :
    m.writeBytes a (v :: vs) = (m.write a v).writeBytes (a + 1) vs := rfl

theorem Memory.writeBytes_wf {m : Memory} (a : Nat) (vs : List Byte) (h : m.wf) : (m.writeBytes a vs).wf := by
  induction vs generalizing m a with
  | nil => exact h
  | cons v vs ih => exact ih (a + 1) (Memory.write_wf a v h)

theorem Memory.writeBytes_inCapacity {m : Memory} {a : Nat} {vs : List Byte} (h : m.inCapacity)
    (ha : a + vs.length ≤ Config.capacity) : (m.writeBytes a vs).inCapacity := by
  induction vs generalizing m a with
  | nil => exact h
  | cons v vs ih =>
    simp only [List.length_cons] at ha
    exact ih (Memory.write_inCapacity v h (by omega)) (by omega)

/-- A byte outside the written range reads as before. -/
theorem Memory.read_writeBytes_outside {m : Memory} {a x : Nat} {vs : List Byte} (h : ¬ (a ≤ x ∧ x < a + vs.length)) :
    (m.writeBytes a vs).read x = m.read x := by
  induction vs generalizing m a with
  | nil => rfl
  | cons v vs ih =>
    simp only [List.length_cons] at h
    rw [Memory.writeBytes_cons, ih (by omega), Memory.read_write_other v (by omega)]

/-- A byte inside the written range reads as the byte written to it. -/
theorem Memory.read_writeBytes_inside {m : Memory} (a : Nat) {vs : List Byte} (hm : m.wf) {k : Nat} (hk : k < vs.length)
    (d : Byte) : (m.writeBytes a vs).read (a + k) = vs.getD k d := by
  induction vs generalizing m a k with
  | nil => simp at hk
  | cons v vs ih =>
    cases k with
    | zero =>
      rw [Memory.writeBytes_cons, Memory.read_writeBytes_outside (by omega)]
      simpa using Memory.read_write_same a v hm
    | succ k =>
      have := ih (a + 1) (Memory.write_wf a v hm) (Nat.lt_of_succ_lt_succ hk)
      simpa [Nat.add_assoc, Nat.add_comm 1 k] using this

@[simp] theorem Memory.readBytes_length (m : Memory) (a n : Nat) : (m.readBytes a n).length = n := by
  simp [Memory.readBytes]

end Sys2Proof.Machine
end

