-- ==== Sys2Proof/Laws/State.lean ====
section
/-! SUPPORT. What each update of the state leaves in each part of it: one lemma per part, and per field of a part it writes. -/

namespace Sys2Proof.Machine

/-! The fixed numbers of Config, for arithmetic. -/

theorem capacity_eq : Config.capacity = 32768 := rfl
theorem sampleBytes_eq : Config.sampleBytes = 2 := rfl
theorem pageSize_eq : Config.pageSize = 64 := rfl
theorem maxAttempts_eq : Config.maxAttempts = 100 := rfl
theorem windowBytes_eq : windowBytes = 32 := rfl
theorem longestCommand_eq : longestCommand = 202 := rfl

variable (s : State)

@[simp] theorem delay_eq (n : Nat) : delay n s = s := rfl

@[simp] theorem goto_params (l : Seq) : (goto l s).params = s.params := rfl
@[simp] theorem goto_host (l : Seq) : (goto l s).host = s.host := rfl
@[simp] theorem goto_seqr_seq (l : Seq) : (goto l s).seqr.seq = l := rfl
@[simp] theorem goto_seqr_lOp (l : Seq) : (goto l s).seqr.lOp = s.seqr.lOp := rfl
@[simp] theorem goto_seqr_lAddr (l : Seq) : (goto l s).seqr.lAddr = s.seqr.lAddr := rfl
@[simp] theorem goto_seqr_lArg (l : Seq) : (goto l s).seqr.lArg = s.seqr.lArg := rfl
@[simp] theorem goto_seqr_att (l : Seq) : (goto l s).seqr.att = s.seqr.att := rfl
@[simp] theorem goto_seqr_tx (l : Seq) : (goto l s).seqr.tx = s.seqr.tx := rfl
@[simp] theorem goto_seqr_rx (l : Seq) : (goto l s).seqr.rx = s.seqr.rx := rfl
@[simp] theorem goto_sim (l : Seq) : (goto l s).sim = s.sim := rfl
@[simp] theorem goto_env (l : Seq) : (goto l s).env = s.env := rfl

@[simp] theorem finish_params (ok : Bool) (err : ErrCause) (v : Word) (c : Half) : (finish ok err v c s).params = s.params := rfl
@[simp] theorem finish_host_cmdArg (ok : Bool) (err : ErrCause) (v : Word) (c : Half) : (finish ok err v c s).host.cmdArg = s.host.cmdArg := rfl
@[simp] theorem finish_host_cmd (ok : Bool) (err : ErrCause) (v : Word) (c : Half) : (finish ok err v c s).host.cmd = s.host.cmd := rfl
@[simp] theorem finish_host_status (ok : Bool) (err : ErrCause) (v : Word) (c : Half) : (finish ok err v c s).host.status = s.host.status.finished ok err := rfl
@[simp] theorem finish_host_result (ok : Bool) (err : ErrCause) (v : Word) (c : Half) : (finish ok err v c s).host.result = v := rfl
@[simp] theorem finish_host_raw (ok : Bool) (err : ErrCause) (v : Word) (c : Half) : (finish ok err v c s).host.raw = c := rfl
@[simp] theorem finish_host_polls (ok : Bool) (err : ErrCause) (v : Word) (c : Half) : (finish ok err v c s).host.polls = s.host.polls := rfl
@[simp] theorem finish_seqr_seq (ok : Bool) (err : ErrCause) (v : Word) (c : Half) : (finish ok err v c s).seqr.seq = .idle := rfl
@[simp] theorem finish_seqr_lOp (ok : Bool) (err : ErrCause) (v : Word) (c : Half) : (finish ok err v c s).seqr.lOp = s.seqr.lOp := rfl
@[simp] theorem finish_seqr_lAddr (ok : Bool) (err : ErrCause) (v : Word) (c : Half) : (finish ok err v c s).seqr.lAddr = s.seqr.lAddr := rfl
@[simp] theorem finish_seqr_lArg (ok : Bool) (err : ErrCause) (v : Word) (c : Half) : (finish ok err v c s).seqr.lArg = s.seqr.lArg := rfl
@[simp] theorem finish_seqr_att (ok : Bool) (err : ErrCause) (v : Word) (c : Half) : (finish ok err v c s).seqr.att = s.seqr.att := rfl
@[simp] theorem finish_seqr_tx (ok : Bool) (err : ErrCause) (v : Word) (c : Half) : (finish ok err v c s).seqr.tx = s.seqr.tx := rfl
@[simp] theorem finish_seqr_rx (ok : Bool) (err : ErrCause) (v : Word) (c : Half) : (finish ok err v c s).seqr.rx = s.seqr.rx := rfl
@[simp] theorem finish_sim (ok : Bool) (err : ErrCause) (v : Word) (c : Half) : (finish ok err v c s).sim = s.sim := rfl
@[simp] theorem finish_env (ok : Bool) (err : ErrCause) (v : Word) (c : Half) : (finish ok err v c s).env = s.env := rfl

@[simp] theorem accept_params (v : Word) : (accept v s).params = s.params := rfl
@[simp] theorem accept_host_cmdArg (v : Word) : (accept v s).host.cmdArg = s.host.cmdArg := rfl
@[simp] theorem accept_host_cmd (v : Word) : (accept v s).host.cmd = v := rfl
@[simp] theorem accept_host_status (v : Word) : (accept v s).host.status = Status.accepted := rfl
@[simp] theorem accept_host_result (v : Word) : (accept v s).host.result = s.host.result := rfl
@[simp] theorem accept_host_raw (v : Word) : (accept v s).host.raw = s.host.raw := rfl
@[simp] theorem accept_host_polls (v : Word) : (accept v s).host.polls = 0#8 := rfl
@[simp] theorem accept_seqr_seq (v : Word) : (accept v s).seqr.seq = startOf (decodeH s.host.cmdArg v) := rfl
@[simp] theorem accept_seqr_lOp (v : Word) : (accept v s).seqr.lOp = opField v := rfl
@[simp] theorem accept_seqr_lAddr (v : Word) : (accept v s).seqr.lAddr = addrField v := rfl
@[simp] theorem accept_seqr_lArg (v : Word) : (accept v s).seqr.lArg = s.host.cmdArg := rfl
@[simp] theorem accept_seqr_att (v : Word) : (accept v s).seqr.att = s.seqr.att := rfl
@[simp] theorem accept_seqr_tx (v : Word) : (accept v s).seqr.tx = s.seqr.tx := rfl
@[simp] theorem accept_seqr_rx (v : Word) : (accept v s).seqr.rx = s.seqr.rx := rfl
@[simp] theorem accept_sim (v : Word) : (accept v s).sim = s.sim := rfl
@[simp] theorem accept_env_inputs (v : Word) : (accept v s).env.inputs = s.env.inputs := rfl
@[simp] theorem accept_env_oracle (v : Word) : (accept v s).env.oracle = s.env.oracle := rfl
@[simp] theorem accept_env_draws (v : Word) : (accept v s).env.draws = s.env.draws := rfl
@[simp] theorem accept_env_traffic (v : Word) : (accept v s).env.traffic = [] := rfl
@[simp] theorem accept_env_hostOut (v : Word) : (accept v s).env.hostOut = s.env.hostOut := rfl
@[simp] theorem accept_env_busOut (v : Word) : (accept v s).env.busOut = s.env.busOut := rfl
@[simp] theorem accept_env_ctlOut (v : Word) : (accept v s).env.ctlOut = s.env.ctlOut := rfl

@[simp] theorem dropCommand_params : (dropCommand s).params = s.params := rfl
@[simp] theorem dropCommand_host_cmdArg : (dropCommand s).host.cmdArg = s.host.cmdArg := rfl
@[simp] theorem dropCommand_host_cmd : (dropCommand s).host.cmd = s.host.cmd := rfl
@[simp] theorem dropCommand_host_status : (dropCommand s).host.status = { s.host.status with ovr := true } := rfl
@[simp] theorem dropCommand_host_result : (dropCommand s).host.result = s.host.result := rfl
@[simp] theorem dropCommand_host_raw : (dropCommand s).host.raw = s.host.raw := rfl
@[simp] theorem dropCommand_host_polls : (dropCommand s).host.polls = s.host.polls := rfl
@[simp] theorem dropCommand_seqr : (dropCommand s).seqr = s.seqr := rfl
@[simp] theorem dropCommand_sim : (dropCommand s).sim = s.sim := rfl
@[simp] theorem dropCommand_env : (dropCommand s).env = s.env := rfl

@[simp] theorem writeCmdArg_params (v : Word) : (writeCmdArg v s).params = s.params := rfl
@[simp] theorem writeCmdArg_host_cmdArg (v : Word) : (writeCmdArg v s).host.cmdArg = v := rfl
@[simp] theorem writeCmdArg_host_cmd (v : Word) : (writeCmdArg v s).host.cmd = s.host.cmd := rfl
@[simp] theorem writeCmdArg_host_status (v : Word) : (writeCmdArg v s).host.status = s.host.status := rfl
@[simp] theorem writeCmdArg_host_result (v : Word) : (writeCmdArg v s).host.result = s.host.result := rfl
@[simp] theorem writeCmdArg_host_raw (v : Word) : (writeCmdArg v s).host.raw = s.host.raw := rfl
@[simp] theorem writeCmdArg_host_polls (v : Word) : (writeCmdArg v s).host.polls = s.host.polls := rfl
@[simp] theorem writeCmdArg_seqr (v : Word) : (writeCmdArg v s).seqr = s.seqr := rfl
@[simp] theorem writeCmdArg_sim (v : Word) : (writeCmdArg v s).sim = s.sim := rfl
@[simp] theorem writeCmdArg_env (v : Word) : (writeCmdArg v s).env = s.env := rfl

@[simp] theorem setExhausted_params : (setExhausted s).params = s.params := rfl
@[simp] theorem setExhausted_host_cmdArg : (setExhausted s).host.cmdArg = s.host.cmdArg := rfl
@[simp] theorem setExhausted_host_cmd : (setExhausted s).host.cmd = s.host.cmd := rfl
@[simp] theorem setExhausted_host_status : (setExhausted s).host.status = { s.host.status with pexh := true } := rfl
@[simp] theorem setExhausted_host_result : (setExhausted s).host.result = s.host.result := rfl
@[simp] theorem setExhausted_host_raw : (setExhausted s).host.raw = s.host.raw := rfl
@[simp] theorem setExhausted_host_polls : (setExhausted s).host.polls = s.host.polls := rfl
@[simp] theorem setExhausted_seqr : (setExhausted s).seqr = s.seqr := rfl
@[simp] theorem setExhausted_sim : (setExhausted s).sim = s.sim := rfl
@[simp] theorem setExhausted_env : (setExhausted s).env = s.env := rfl

@[simp] theorem countProbe_params (n : Nat) : (countProbe n s).params = s.params := rfl
@[simp] theorem countProbe_host_cmdArg (n : Nat) : (countProbe n s).host.cmdArg = s.host.cmdArg := rfl
@[simp] theorem countProbe_host_cmd (n : Nat) : (countProbe n s).host.cmd = s.host.cmd := rfl
@[simp] theorem countProbe_host_status (n : Nat) : (countProbe n s).host.status = s.host.status := rfl
@[simp] theorem countProbe_host_result (n : Nat) : (countProbe n s).host.result = s.host.result := rfl
@[simp] theorem countProbe_host_raw (n : Nat) : (countProbe n s).host.raw = s.host.raw := rfl
@[simp] theorem countProbe_host_polls (n : Nat) : (countProbe n s).host.polls = s.host.polls + 1#8 := rfl
@[simp] theorem countProbe_seqr_seq (n : Nat) : (countProbe n s).seqr.seq = s.seqr.seq := rfl
@[simp] theorem countProbe_seqr_lOp (n : Nat) : (countProbe n s).seqr.lOp = s.seqr.lOp := rfl
@[simp] theorem countProbe_seqr_lAddr (n : Nat) : (countProbe n s).seqr.lAddr = s.seqr.lAddr := rfl
@[simp] theorem countProbe_seqr_lArg (n : Nat) : (countProbe n s).seqr.lArg = s.seqr.lArg := rfl
@[simp] theorem countProbe_seqr_att (n : Nat) : (countProbe n s).seqr.att = n := rfl
@[simp] theorem countProbe_seqr_tx (n : Nat) : (countProbe n s).seqr.tx = s.seqr.tx := rfl
@[simp] theorem countProbe_seqr_rx (n : Nat) : (countProbe n s).seqr.rx = s.seqr.rx := rfl
@[simp] theorem countProbe_sim (n : Nat) : (countProbe n s).sim = s.sim := rfl
@[simp] theorem countProbe_env (n : Nat) : (countProbe n s).env = s.env := rfl

@[simp] theorem loadTx_params (b : TxBuffer) : (loadTx b s).params = s.params := rfl
@[simp] theorem loadTx_host (b : TxBuffer) : (loadTx b s).host = s.host := rfl
@[simp] theorem loadTx_seqr_seq (b : TxBuffer) : (loadTx b s).seqr.seq = s.seqr.seq := rfl
@[simp] theorem loadTx_seqr_lOp (b : TxBuffer) : (loadTx b s).seqr.lOp = s.seqr.lOp := rfl
@[simp] theorem loadTx_seqr_lAddr (b : TxBuffer) : (loadTx b s).seqr.lAddr = s.seqr.lAddr := rfl
@[simp] theorem loadTx_seqr_lArg (b : TxBuffer) : (loadTx b s).seqr.lArg = s.seqr.lArg := rfl
@[simp] theorem loadTx_seqr_att (b : TxBuffer) : (loadTx b s).seqr.att = s.seqr.att := rfl
@[simp] theorem loadTx_seqr_tx (b : TxBuffer) : (loadTx b s).seqr.tx = b := rfl
@[simp] theorem loadTx_seqr_rx (b : TxBuffer) : (loadTx b s).seqr.rx = s.seqr.rx := rfl
@[simp] theorem loadTx_sim (b : TxBuffer) : (loadTx b s).sim = s.sim := rfl
@[simp] theorem loadTx_env (b : TxBuffer) : (loadTx b s).env = s.env := rfl

@[simp] theorem recordTransfer_params (q : BusRequest) (r : BusResponse) : (recordTransfer q r s).params = s.params := rfl
@[simp] theorem recordTransfer_host_cmdArg (q : BusRequest) (r : BusResponse) : (recordTransfer q r s).host.cmdArg = s.host.cmdArg := rfl
@[simp] theorem recordTransfer_host_cmd (q : BusRequest) (r : BusResponse) : (recordTransfer q r s).host.cmd = s.host.cmd := rfl
@[simp] theorem recordTransfer_host_status (q : BusRequest) (r : BusResponse) : (recordTransfer q r s).host.status = { s.host.status with busst := r.status } := rfl
@[simp] theorem recordTransfer_host_result (q : BusRequest) (r : BusResponse) : (recordTransfer q r s).host.result = s.host.result := rfl
@[simp] theorem recordTransfer_host_raw (q : BusRequest) (r : BusResponse) : (recordTransfer q r s).host.raw = s.host.raw := rfl
@[simp] theorem recordTransfer_host_polls (q : BusRequest) (r : BusResponse) : (recordTransfer q r s).host.polls = s.host.polls := rfl
@[simp] theorem recordTransfer_seqr_seq (q : BusRequest) (r : BusResponse) : (recordTransfer q r s).seqr.seq = s.seqr.seq := rfl
@[simp] theorem recordTransfer_seqr_lOp (q : BusRequest) (r : BusResponse) : (recordTransfer q r s).seqr.lOp = s.seqr.lOp := rfl
@[simp] theorem recordTransfer_seqr_lAddr (q : BusRequest) (r : BusResponse) : (recordTransfer q r s).seqr.lAddr = s.seqr.lAddr := rfl
@[simp] theorem recordTransfer_seqr_lArg (q : BusRequest) (r : BusResponse) : (recordTransfer q r s).seqr.lArg = s.seqr.lArg := rfl
@[simp] theorem recordTransfer_seqr_att (q : BusRequest) (r : BusResponse) : (recordTransfer q r s).seqr.att = s.seqr.att := rfl
@[simp] theorem recordTransfer_seqr_tx (q : BusRequest) (r : BusResponse) : (recordTransfer q r s).seqr.tx = s.seqr.tx := rfl
@[simp] theorem recordTransfer_seqr_rx (q : BusRequest) (r : BusResponse) : (recordTransfer q r s).seqr.rx = if r.status = .ok then s.seqr.rx.store q.rxlen r.data else s.seqr.rx := rfl
@[simp] theorem recordTransfer_sim (q : BusRequest) (r : BusResponse) : (recordTransfer q r s).sim = s.sim := rfl
@[simp] theorem recordTransfer_env_inputs (q : BusRequest) (r : BusResponse) : (recordTransfer q r s).env.inputs = s.env.inputs := rfl
@[simp] theorem recordTransfer_env_oracle (q : BusRequest) (r : BusResponse) : (recordTransfer q r s).env.oracle = s.env.oracle := rfl
@[simp] theorem recordTransfer_env_draws (q : BusRequest) (r : BusResponse) : (recordTransfer q r s).env.draws = s.env.draws := rfl
@[simp] theorem recordTransfer_env_traffic (q : BusRequest) (r : BusResponse) : (recordTransfer q r s).env.traffic = s.env.traffic ++ [⟨q, r.status⟩] := rfl
@[simp] theorem recordTransfer_env_hostOut (q : BusRequest) (r : BusResponse) : (recordTransfer q r s).env.hostOut = s.env.hostOut := rfl
@[simp] theorem recordTransfer_env_busOut (q : BusRequest) (r : BusResponse) : (recordTransfer q r s).env.busOut = s.env.busOut := rfl
@[simp] theorem recordTransfer_env_ctlOut (q : BusRequest) (r : BusResponse) : (recordTransfer q r s).env.ctlOut = s.env.ctlOut := rfl

@[simp] theorem withInputs_params (es : List Input) : (withInputs es s).params = s.params := rfl
@[simp] theorem withInputs_host (es : List Input) : (withInputs es s).host = s.host := rfl
@[simp] theorem withInputs_seqr (es : List Input) : (withInputs es s).seqr = s.seqr := rfl
@[simp] theorem withInputs_sim (es : List Input) : (withInputs es s).sim = s.sim := rfl
@[simp] theorem withInputs_env_inputs (es : List Input) : (withInputs es s).env.inputs = es := rfl
@[simp] theorem withInputs_env_oracle (es : List Input) : (withInputs es s).env.oracle = s.env.oracle := rfl
@[simp] theorem withInputs_env_draws (es : List Input) : (withInputs es s).env.draws = s.env.draws := rfl
@[simp] theorem withInputs_env_traffic (es : List Input) : (withInputs es s).env.traffic = s.env.traffic := rfl
@[simp] theorem withInputs_env_hostOut (es : List Input) : (withInputs es s).env.hostOut = s.env.hostOut := rfl
@[simp] theorem withInputs_env_busOut (es : List Input) : (withInputs es s).env.busOut = s.env.busOut := rfl
@[simp] theorem withInputs_env_ctlOut (es : List Input) : (withInputs es s).env.ctlOut = s.env.ctlOut := rfl

@[simp] theorem answerHost_params (v : Word) : (answerHost v s).params = s.params := rfl
@[simp] theorem answerHost_host (v : Word) : (answerHost v s).host = s.host := rfl
@[simp] theorem answerHost_seqr (v : Word) : (answerHost v s).seqr = s.seqr := rfl
@[simp] theorem answerHost_sim (v : Word) : (answerHost v s).sim = s.sim := rfl
@[simp] theorem answerHost_env_inputs (v : Word) : (answerHost v s).env.inputs = s.env.inputs := rfl
@[simp] theorem answerHost_env_oracle (v : Word) : (answerHost v s).env.oracle = s.env.oracle := rfl
@[simp] theorem answerHost_env_draws (v : Word) : (answerHost v s).env.draws = s.env.draws := rfl
@[simp] theorem answerHost_env_traffic (v : Word) : (answerHost v s).env.traffic = s.env.traffic := rfl
@[simp] theorem answerHost_env_hostOut (v : Word) : (answerHost v s).env.hostOut = v := rfl
@[simp] theorem answerHost_env_busOut (v : Word) : (answerHost v s).env.busOut = s.env.busOut := rfl
@[simp] theorem answerHost_env_ctlOut (v : Word) : (answerHost v s).env.ctlOut = s.env.ctlOut := rfl

@[simp] theorem answerBus_params (r : Option BusResponse) : (answerBus r s).params = s.params := rfl
@[simp] theorem answerBus_host (r : Option BusResponse) : (answerBus r s).host = s.host := rfl
@[simp] theorem answerBus_seqr (r : Option BusResponse) : (answerBus r s).seqr = s.seqr := rfl
@[simp] theorem answerBus_sim (r : Option BusResponse) : (answerBus r s).sim = s.sim := rfl
@[simp] theorem answerBus_env_inputs (r : Option BusResponse) : (answerBus r s).env.inputs = s.env.inputs := rfl
@[simp] theorem answerBus_env_oracle (r : Option BusResponse) : (answerBus r s).env.oracle = s.env.oracle := rfl
@[simp] theorem answerBus_env_draws (r : Option BusResponse) : (answerBus r s).env.draws = s.env.draws := rfl
@[simp] theorem answerBus_env_traffic (r : Option BusResponse) : (answerBus r s).env.traffic = s.env.traffic := rfl
@[simp] theorem answerBus_env_hostOut (r : Option BusResponse) : (answerBus r s).env.hostOut = s.env.hostOut := rfl
@[simp] theorem answerBus_env_busOut (r : Option BusResponse) : (answerBus r s).env.busOut = r := rfl
@[simp] theorem answerBus_env_ctlOut (r : Option BusResponse) : (answerBus r s).env.ctlOut = s.env.ctlOut := rfl

@[simp] theorem answerControl_params (e : Bool) (v : Word) : (answerControl e v s).params = s.params := rfl
@[simp] theorem answerControl_host (e : Bool) (v : Word) : (answerControl e v s).host = s.host := rfl
@[simp] theorem answerControl_seqr (e : Bool) (v : Word) : (answerControl e v s).seqr = s.seqr := rfl
@[simp] theorem answerControl_sim (e : Bool) (v : Word) : (answerControl e v s).sim = s.sim := rfl
@[simp] theorem answerControl_env_inputs (e : Bool) (v : Word) : (answerControl e v s).env.inputs = s.env.inputs := rfl
@[simp] theorem answerControl_env_oracle (e : Bool) (v : Word) : (answerControl e v s).env.oracle = s.env.oracle := rfl
@[simp] theorem answerControl_env_draws (e : Bool) (v : Word) : (answerControl e v s).env.draws = s.env.draws := rfl
@[simp] theorem answerControl_env_traffic (e : Bool) (v : Word) : (answerControl e v s).env.traffic = s.env.traffic := rfl
@[simp] theorem answerControl_env_hostOut (e : Bool) (v : Word) : (answerControl e v s).env.hostOut = s.env.hostOut := rfl
@[simp] theorem answerControl_env_busOut (e : Bool) (v : Word) : (answerControl e v s).env.busOut = s.env.busOut := rfl
@[simp] theorem answerControl_env_ctlOut (e : Bool) (v : Word) : (answerControl e v s).env.ctlOut = ⟨e, v⟩ := rfl

@[simp] theorem withSim_params (m : Simulator) : (withSim m s).params = s.params := rfl
@[simp] theorem withSim_host (m : Simulator) : (withSim m s).host = s.host := rfl
@[simp] theorem withSim_seqr (m : Simulator) : (withSim m s).seqr = s.seqr := rfl
@[simp] theorem withSim_sim (m : Simulator) : (withSim m s).sim = m := rfl
@[simp] theorem withSim_env (m : Simulator) : (withSim m s).env = s.env := rfl

@[simp] theorem blockReset_params : (blockReset s).params = s.params := rfl
@[simp] theorem blockReset_host : (blockReset s).host = HostRegs.cleared := rfl
@[simp] theorem blockReset_seqr : (blockReset s).seqr = Sequencer.cleared := rfl
@[simp] theorem blockReset_sim : (blockReset s).sim = s.sim := rfl
@[simp] theorem blockReset_env_inputs : (blockReset s).env.inputs = s.env.inputs := rfl
@[simp] theorem blockReset_env_oracle : (blockReset s).env.oracle = s.env.oracle := rfl
@[simp] theorem blockReset_env_draws : (blockReset s).env.draws = s.env.draws := rfl
@[simp] theorem blockReset_env_traffic : (blockReset s).env.traffic = [] := rfl
@[simp] theorem blockReset_env_hostOut : (blockReset s).env.hostOut = s.env.hostOut := rfl
@[simp] theorem blockReset_env_busOut : (blockReset s).env.busOut = s.env.busOut := rfl
@[simp] theorem blockReset_env_ctlOut : (blockReset s).env.ctlOut = s.env.ctlOut := rfl

@[simp] theorem powerUp_params : (powerUp s).params = s.params := rfl
@[simp] theorem powerUp_host : (powerUp s).host = HostRegs.cleared := rfl
@[simp] theorem powerUp_seqr : (powerUp s).seqr = Sequencer.cleared := rfl
@[simp] theorem powerUp_sim : (powerUp s).sim = Simulator.initial := rfl
@[simp] theorem powerUp_env_inputs : (powerUp s).env.inputs = s.env.inputs := rfl
@[simp] theorem powerUp_env_oracle : (powerUp s).env.oracle = s.env.oracle := rfl
@[simp] theorem powerUp_env_draws : (powerUp s).env.draws = s.env.draws := rfl
@[simp] theorem powerUp_env_traffic : (powerUp s).env.traffic = [] := rfl
@[simp] theorem powerUp_env_hostOut : (powerUp s).env.hostOut = s.env.hostOut := rfl
@[simp] theorem powerUp_env_busOut : (powerUp s).env.busOut = s.env.busOut := rfl
@[simp] theorem powerUp_env_ctlOut : (powerUp s).env.ctlOut = s.env.ctlOut := rfl

end Sys2Proof.Machine
end

