-- ==== Sys2Proof/Laws/Device.lean ====
section
/-! SUPPORT. The device agent as a function of its own part of the state, and what a transaction leaves alone. -/

namespace Sys2Proof.Machine

/-- The device's part of the state. -/
structure Device where
  sim    : Simulator
  oracle : List BusResponse
  draws  : Nat

/-- The device's part of a state. -/
def deviceOf (s : State) : Device := ⟨s.sim, s.env.oracle, s.env.draws⟩

/-- The state with another device's part. -/
def withDevice (d : Device) (s : State) : State :=
  { s with sim := d.sim, env := { s.env with oracle := d.oracle, draws := d.draws } }

/-- The device agent on its own part of the state. -/
def answerOf (p : Params) (q : BusRequest) (d : Device) : Option (BusResponse × Device) :=
  match p.device with
  | .simulator => some ((onBus p.threshold q d.sim).1, { d with sim := (onBus p.threshold q d.sim).2 })
  | .real =>
    match d.oracle with
    | a :: rest => some (shapedAnswer a.status a.data d.draws (askedBytes q), ⟨d.sim, rest, d.draws + 1⟩)
    | [] => some (shapedAnswer (BusStatus.ofCode (Config.drawStatus d.draws)) [] d.draws (askedBytes q),
        ⟨d.sim, [], d.draws + 1⟩)
  | .silent => none

section
variable (d d' : Device) (s : State)

@[simp] theorem withDevice_params : (withDevice d s).params = s.params := rfl
@[simp] theorem withDevice_host : (withDevice d s).host = s.host := rfl
@[simp] theorem withDevice_seqr : (withDevice d s).seqr = s.seqr := rfl
@[simp] theorem withDevice_sim : (withDevice d s).sim = d.sim := rfl
@[simp] theorem withDevice_env_inputs : (withDevice d s).env.inputs = s.env.inputs := rfl
@[simp] theorem withDevice_env_oracle : (withDevice d s).env.oracle = d.oracle := rfl
@[simp] theorem withDevice_env_draws : (withDevice d s).env.draws = d.draws := rfl
@[simp] theorem withDevice_env_traffic : (withDevice d s).env.traffic = s.env.traffic := rfl
@[simp] theorem withDevice_env_hostOut : (withDevice d s).env.hostOut = s.env.hostOut := rfl
@[simp] theorem withDevice_env_busOut : (withDevice d s).env.busOut = s.env.busOut := rfl
@[simp] theorem withDevice_env_ctlOut : (withDevice d s).env.ctlOut = s.env.ctlOut := rfl
@[simp] theorem deviceOf_withDevice : deviceOf (withDevice d s) = d := rfl
@[simp] theorem withDevice_deviceOf : withDevice (deviceOf s) s = s := rfl
@[simp] theorem withDevice_withDevice : withDevice d' (withDevice d s) = withDevice d' s := rfl

/-- The parts of the state a device answer depends on and writes. -/
theorem deviceAnswer_eq (q : BusRequest) :
    deviceAnswer q s = (answerOf s.params q (deviceOf s)).map fun x => (x.1, withDevice x.2 s) := by
  unfold deviceAnswer answerOf realAnswer deviceOf
  cases s.params.device <;> simp [withDevice, withSim]
  cases s.env.oracle <;> simp

/-- What a device answer may change: the simulator, and the real device's answers. -/
theorem deviceAnswer_some {q : BusRequest} {s s1 : State} {r : BusResponse} (h : deviceAnswer q s = some (r, s1)) :
    ∃ d, answerOf s.params q (deviceOf s) = some (r, d) ∧ s1 = withDevice d s := by
  rw [deviceAnswer_eq] at h
  simp only [Option.map_eq_some_iff, Prod.mk.injEq, Prod.exists] at h
  obtain ⟨r', d, hd, rfl, rfl⟩ := h
  exact ⟨d, hd, rfl⟩

/-- Only a silent device does not answer. -/
theorem answerOf_isSome {p : Params} (q : BusRequest) (h : p.device ≠ .silent) :
    ∃ r d', answerOf p q d = some (r, d') := by
  unfold answerOf
  cases hp : p.device
  · exact ⟨_, _, rfl⟩
  · cases d.oracle <;> exact ⟨_, _, rfl⟩
  · exact absurd hp h

theorem answerOf_silent {p : Params} (q : BusRequest) (h : p.device = .silent) : answerOf p q d = none := by
  simp [answerOf, h]

/-- The simulator answers as `onBus` says and leaves the real device's answers alone. -/
theorem answerOf_simulator {p : Params} (q : BusRequest) (h : p.device = .simulator) :
    answerOf p q d = some ((onBus p.threshold q d.sim).1, { d with sim := (onBus p.threshold q d.sim).2 }) := by
  simp [answerOf, h]

/-- A real device leaves the simulator alone. -/
theorem answerOf_real_sim {p : Params} {q : BusRequest} {d d' : Device} {r : BusResponse} (h : p.device ≠ .simulator)
    (ha : answerOf p q d = some (r, d')) : d'.sim = d.sim := by
  unfold answerOf at ha
  cases hp : p.device <;> simp only [hp] at ha
  · exact absurd hp h
  · cases ho : d.oracle <;> simp only [ho, Option.some.injEq, Prod.mk.injEq] at ha <;> rw [← ha.2]
  · cases ha

end

/-- `xfer` (R144) in terms of the device's own part of the state. -/
theorem xfer_eq (kind : BusKind) (tx : List Byte) (n : Nat) (s : State) :
    xfer kind tx n s = (answerOf s.params ⟨kind, s.params.devAddr, tx, n⟩ (deviceOf s)).map fun x =>
      (x.1, recordTransfer ⟨kind, s.params.devAddr, tx, n⟩ x.1 (withDevice x.2 s)) := by
  unfold xfer
  rw [deviceAnswer_eq]
  cases answerOf s.params ⟨kind, s.params.devAddr, tx, n⟩ (deviceOf s) <;> rfl

/-! The simulator. -/

@[simp] theorem busyStep_status (T : Nat) (m : Simulator) : (busyStep T m).1 = plainAnswer .notAcknowledged := rfl

theorem handleWrite_busy {T : Nat} {tx : List Byte} {m : Simulator} (h : m.busyf = true) :
    handleWrite T tx m = busyStep T m := by simp [handleWrite, h]

theorem handleRead_busy {T n : Nat} {m : Simulator} (h : m.busyf = true) : handleRead T n m = busyStep T m := by
  simp [handleRead, h]

theorem handleWriteRead_busy {T n : Nat} {tx : List Byte} {m : Simulator} (h : m.busyf = true) :
    handleWriteRead T tx n m = busyStep T m := by
  simp [handleWriteRead, handleWrite_busy h, plainAnswer]

theorem handleWrite_idle_nil {T : Nat} {m : Simulator} (h : m.busyf = false) :
    handleWrite T [] m = (plainAnswer .ok, m) := by simp [handleWrite, h, idleProbe]

theorem handleRead_idle {T n : Nat} {m : Simulator} (h : m.busyf = false) : handleRead T n m = idleRead n m := by
  simp [handleRead, h]

/-- What a busy request may change. -/
theorem busyStep_frame (T : Nat) (m : Simulator) :
    (busyStep T m).2.mem = m.mem ∧ (busyStep T m).2.ptr = m.ptr := by
  unfold busyStep; split <;> exact ⟨rfl, rfl⟩

/-- What a write may change: an in-bounds data write its own bytes, an address-only write PTR. -/
theorem handleWrite_mem (T : Nat) (tx : List Byte) (m : Simulator) :
    (handleWrite T tx m).2.mem = m.mem
    ∨ (m.busyf = false ∧ 3 ≤ tx.length ∧ writeAddress tx + (writeData tx).length ≤ Config.capacity
      ∧ handleWrite T tx m = (plainAnswer .ok,
          { m with mem := m.mem.writeBytes (writeAddress tx) (writeData tx), busyf := true, bcnt := 0#16 })) := by
  unfold handleWrite
  split
  · exact .inl (busyStep_frame T m).1
  · rename_i hb
    split
    · exact .inl rfl
    · split
      · exact .inl rfl
      · split
        · exact .inl rfl
        · unfold dataWrite
          split
          · exact .inl rfl
          · exact .inr ⟨by simpa using hb, by omega, by omega, rfl⟩

/-- A read changes no byte and not PTR. -/
theorem handleRead_frame (T n : Nat) (m : Simulator) :
    (handleRead T n m).2.mem = m.mem ∧ (handleRead T n m).2.ptr = m.ptr := by
  unfold handleRead
  split
  · exact busyStep_frame T m
  · unfold idleRead; split <;> exact ⟨rfl, rfl⟩

end Sys2Proof.Machine
end

