-- ==== Sys2Proof/Laws/PerInstr.lean ====
section
/-! SUPPORT. The per-instruction law FixedBits: the encoded word of an instruction has the fixed bits of its opcode-table row. -/

namespace Sys2Proof.Laws

/-- The fixed bits of an encoding, as the opcode table gives them: the word holding the row's opcode, its mask and its match
value. For format H and S the mask is 0x0000FFFF (RSV and OP or SOP), for format B 0x0000FE03 (RSV and KIND). -/
def fixedBits : Instr → BitVec 32 × BitVec 32
  | .encodeTemp _ _ => (0x0000FFFF#32, 0x00000001#32)
  | .decodeCode _ _ => (0x0000FFFF#32, 0x00000002#32)
  | .logData _ _ => (0x0000FFFF#32, 0x00000003#32)
  | .readData _ _ => (0x0000FFFF#32, 0x00000004#32)
  | .waitComplete _ _ => (0x0000FFFF#32, 0x00000005#32)
  | .busWrite _ _ _ => (0x0000FE03#32, 0x00000000#32)
  | .busRead _ _ _ => (0x0000FE03#32, 0x00000001#32)
  | .busWriteRead _ _ _ => (0x0000FE03#32, 0x00000002#32)
  | .simReset _ => (0x0000FFFF#32, 0x00000001#32)
  | .simPeek _ => (0x0000FFFF#32, 0x00000002#32)
  | .simGetBusy _ => (0x0000FFFF#32, 0x00000003#32)
  | .simGetCount _ => (0x0000FFFF#32, 0x00000004#32)

/-- The word of a packet that holds the opcode. -/
def opcodeWord : Packet → Word
  | .h _ cmd => cmd
  | .b header _ => header
  | .s word => word

theorem commandWord_fixed (a : Half) (op : BitVec 4) : commandWord a op &&& 0x0000FFFF#32 = op.setWidth 32 := by
  apply BitVec.eq_of_toNat_eq
  have := op.isLt
  rw [BitVec.toNat_and, commandWord_toNat, show (0x0000FFFF#32).toNat = 2 ^ 16 - 1 from rfl, Nat.and_two_pow_sub_one_eq_mod]
  simp; omega

theorem busHeader_fixed (k : BitVec 2) (d : BitVec 7) (t r : Byte) :
    busHeader k d t r &&& 0x0000FE03#32 = k.setWidth 32 := by
  unfold busHeader
  ext i hi
  simp only [BitVec.getElem_and, BitVec.getElem_append, BitVec.getElem_setWidth]
  interval_cases i <;> simp

namespace FixedBits

/-- The encoded word, masked, is the row's match value. -/
def Statement (i : Instr) : Prop := opcodeWord (encode i) &&& (fixedBits i).1 = (fixedBits i).2

theorem encodeTemp (addr : Half) (arg : Word) : Statement (.encodeTemp addr arg) := commandWord_fixed addr 1#4
theorem decodeCode (addr : Half) (arg : Word) : Statement (.decodeCode addr arg) := commandWord_fixed addr 2#4
theorem logData (addr : Half) (arg : Word) : Statement (.logData addr arg) := commandWord_fixed addr 3#4
theorem readData (addr : Half) (arg : Word) : Statement (.readData addr arg) := commandWord_fixed addr 4#4
theorem waitComplete (addr : Half) (arg : Word) : Statement (.waitComplete addr arg) := commandWord_fixed addr 5#4
theorem busWrite (dev : BitVec 7) (rxlen : Byte) (tx : List Byte) : Statement (.busWrite dev rxlen tx) :=
  busHeader_fixed 0#2 dev _ rxlen
theorem busRead (dev : BitVec 7) (txlen rxlen : Byte) : Statement (.busRead dev txlen rxlen) :=
  busHeader_fixed 1#2 dev txlen rxlen
theorem busWriteRead (dev : BitVec 7) (tx : List Byte) (rxlen : Byte) : Statement (.busWriteRead dev tx rxlen) :=
  busHeader_fixed 2#2 dev _ rxlen
theorem simReset (index : Half) : Statement (.simReset index) := commandWord_fixed index 1#4
theorem simPeek (index : Half) : Statement (.simPeek index) := commandWord_fixed index 2#4
theorem simGetBusy (index : Half) : Statement (.simGetBusy index) := commandWord_fixed index 3#4
theorem simGetCount (index : Half) : Statement (.simGetCount index) := commandWord_fixed index 4#4

end FixedBits

end Sys2Proof.Laws
end

