-- ==== Sys2Proof/Laws/Sequencer.lean ====
section
/-! SUPPORT. The sequencer: acceptance of each command word, the run of a command, and the poll loop as one function of the device. -/

namespace Sys2Proof.Machine

/-! Acceptance (R140). -/

theorem decodeH_commandWord_1 (a : Half) (arg : Word) : decodeH arg (commandWord a 1#4) = .ok (.encodeTemp a arg) := by
  simp [decodeH]

theorem decodeH_commandWord_2 (a : Half) (arg : Word) : decodeH arg (commandWord a 2#4) = .ok (.decodeCode a arg) := by
  simp [decodeH]

theorem decodeH_commandWord_3 (a : Half) (arg : Word) : decodeH arg (commandWord a 3#4) = .ok (.logData a arg) := by
  simp [decodeH]

theorem decodeH_commandWord_4 (a : Half) (arg : Word) : decodeH arg (commandWord a 4#4) = .ok (.readData a arg) := by
  simp [decodeH]

theorem decodeH_commandWord_5 (a : Half) (arg : Word) : decodeH arg (commandWord a 5#4) = .ok (.waitComplete a arg) := by
  simp [decodeH]

/-- The state right after a command word `{addr, op}` with operand `arg` was accepted. -/
def issued (arg cmd : Word) (s : State) : State := accept cmd (writeCmdArg arg s)

theorem runCommand_idle {s : State} (arg cmd : Word) (h : s.host.status.busy = false) :
    runCommand arg cmd s = runSeq longestCommand (issued arg cmd s) := by
  simp [runCommand, writeCmd, issued, h]

theorem runCommand_busy {s : State} (arg cmd : Word) (h : s.host.status.busy = true) :
    runCommand arg cmd s = dropCommand (writeCmdArg arg s) := by
  simp [runCommand, writeCmd, h]

/-! The run of a command. -/

theorem runSeq_idle {s : State} (n : Nat) (h : s.seqr.seq = .idle) : runSeq n s = s := by
  cases n <;> simp [runSeq, h]

theorem runSeq_succ {s : State} (n : Nat) (h : s.seqr.seq ≠ .idle) : runSeq (n + 1) s = runSeq n (seqStep s) := by
  simp [runSeq, h]

theorem seqStep_idle {s : State} (h : s.seqr.seq = .idle) : seqStep s = s := by simp [seqStep, h]

/-- A run of one step that ends the command. -/
theorem runSeq_one {s : State} (n : Nat) (h : s.seqr.seq ≠ .idle) (h' : (seqStep s).seqr.seq = .idle) :
    runSeq (n + 1) s = seqStep s := by rw [runSeq_succ n h, runSeq_idle n h']

/-- A property that every sequencer step keeps holds after a run. -/
theorem runSeq_induct {P : State → Prop} (hstep : ∀ s, P s → P (seqStep s)) (n : Nat) (s : State) (h : P s) :
    P (runSeq n s) := by
  induction n generalizing s with
  | zero => exact h
  | succ n ih =>
    unfold runSeq
    split
    · exact h
    · exact ih _ (hstep s h)

/-- A step that changes nothing is repeated forever. -/
theorem runSeq_stuck {s : State} (n : Nat) (h : seqStep s = s) : runSeq n s = s :=
  runSeq_induct (P := fun t => t = s) (fun t ht => by rw [ht, h]) n s rfl

/-- Two runs in a row. -/
theorem runSeq_add (m n : Nat) (s : State) : runSeq (m + n) s = runSeq n (runSeq m s) := by
  induction m generalizing s with
  | zero => simp [runSeq]
  | succ m ih =>
    by_cases h : s.seqr.seq = .idle
    · rw [runSeq_idle _ h, runSeq_idle _ h, runSeq_idle _ h]
    · rw [Nat.succ_add, runSeq_succ _ h, runSeq_succ _ h, ih]

/-! `finish` overwrites `SEQ`. -/

@[simp] theorem finish_goto (ok : Bool) (e : ErrCause) (v : Word) (c : Half) (l : Seq) (s : State) :
    finish ok e v c (goto l s) = finish ok e v c s := rfl

@[simp] theorem logEnding_goto (l : Seq) (s : State) : logEnding (goto l s) = logEnding s := rfl

@[simp] theorem waitEnding_goto (l : Seq) (s : State) : waitEnding (goto l s) = waitEnding s := rfl

@[simp] theorem setExhausted_goto (l : Seq) (s : State) : setExhausted (goto l s) = goto l (setExhausted s) := rfl

@[simp] theorem goto_goto (l k : Seq) (s : State) : goto l (goto k s) = goto l s := rfl

/-! The poll loop (R150) as a function of the device. -/

/-- The probe the sequencer issues (R98). -/
def probe (p : Params) : BusRequest := ⟨.write, p.devAddr, [], 0⟩

/-- The statuses of at most `n` probes, up to the first Ok one, and the device after them. -/
def pollTrace (p : Params) : Nat → Device → List BusStatus × Device
  | 0, d => ([], d)
  | n + 1, d =>
    match answerOf p (probe p) d with
    | none => ([], d)
    | some (r, d1) =>
      if r.status = .ok then ([.ok], d1) else (r.status :: (pollTrace p n d1).1, (pollTrace p n d1).2)

/-- The state after probes with the given statuses, attempts counted from `att`. -/
def afterProbes (att : Nat) (l : List BusStatus) (d : Device) (s : State) : State :=
  { withDevice d s with
    host := { s.host with
      polls := s.host.polls + BitVec.ofNat 8 l.length
      status := { s.host.status with busst := l.getLast?.getD s.host.status.busst } }
    seqr := { s.seqr with att := att + l.length }
    env := { (withDevice d s).env with traffic := s.env.traffic ++ l.map fun st => ⟨probe s.params, st⟩ } }

/-- `PEXH` after a poll loop whose last probe had the given status. -/
def markExhausted (l : List BusStatus) (s : State) : State := if l.getLast? = some .ok then s else setExhausted s

/-- One attempt on a device that answers. -/
theorem probeStep_some {label : Poll → Seq} {att : Nat} {s : State} {r : BusResponse} {d : Device}
    (h : answerOf s.params (probe s.params) (deviceOf s) = some (r, d)) :
    probeStep label att s
      = goto (label (if r.status = .ok then .done else .delay))
          (recordTransfer (probe s.params) r (withDevice d (countProbe att s))) := by
  unfold probeStep
  rw [xfer_eq]
  have h' : answerOf (countProbe att s).params ⟨.write, (countProbe att s).params.devAddr, [], 0⟩
      (deviceOf (countProbe att s)) = some (r, d) := h
  rw [h']
  rfl

/-- One attempt on a device that does not answer is no step at all. -/
theorem probeStep_none {label : Poll → Seq} {att : Nat} {s : State}
    (h : answerOf s.params (probe s.params) (deviceOf s) = none) : probeStep label att s = s := by
  unfold probeStep
  rw [xfer_eq]
  have h' : answerOf (countProbe att s).params ⟨.write, (countProbe att s).params.devAddr, [], 0⟩
      (deviceOf (countProbe att s)) = none := h
  rw [h']
  rfl

@[simp] theorem RxBuffer.store_zero (rx : RxBuffer) (l : List Byte) : rx.store 0 l = rx := rfl

@[simp] theorem deviceOf_countProbe (n : Nat) (s : State) : deviceOf (countProbe n s) = deviceOf s := rfl
@[simp] theorem deviceOf_goto (l : Seq) (s : State) : deviceOf (goto l s) = deviceOf s := rfl
@[simp] theorem deviceOf_recordTransfer (q : BusRequest) (r : BusResponse) (s : State) :
    deviceOf (recordTransfer q r s) = deviceOf s := rfl
@[simp] theorem deviceOf_issued (arg cmd : Word) (s : State) : deviceOf (issued arg cmd s) = deviceOf s := rfl
@[simp] theorem deviceOf_loadTx (b : TxBuffer) (s : State) : deviceOf (loadTx b s) = deviceOf s := rfl

theorem afterProbes_one (att : Nat) (r : BusResponse) (d : Device) (s : State) :
    recordTransfer (probe s.params) r (withDevice d (countProbe (att + 1) s)) = afterProbes att [r.status] d s := by
  simp [recordTransfer, afterProbes, withDevice, countProbe, probe]

theorem afterProbes_cons (att : Nat) (st : BusStatus) (l : List BusStatus) (d1 d2 : Device) (s : State) :
    afterProbes (att + 1) l d2 (afterProbes att [st] d1 s) = afterProbes att (st :: l) d2 s := by
  simp only [afterProbes, withDevice]
  congr 1
  · congr 1
    · congr 1
      cases l <;> simp [List.getLast?_cons]
    · simp only [List.length_cons, List.length_nil, BitVec.add_assoc]
      congr 1
      apply BitVec.eq_of_toNat_eq
      simp; omega
  · congr 1
    simp; omega
  · simp [probe]

@[simp] theorem afterProbes_params (att : Nat) (l : List BusStatus) (d : Device) (s : State) :
    (afterProbes att l d s).params = s.params := rfl

@[simp] theorem deviceOf_afterProbes (att : Nat) (l : List BusStatus) (d : Device) (s : State) :
    deviceOf (afterProbes att l d s) = d := rfl

@[simp] theorem afterProbes_att (att : Nat) (l : List BusStatus) (d : Device) (s : State) :
    (afterProbes att l d s).seqr.att = att + l.length := rfl

/-- A user of the poll loop: its labels run `pollStep`, and its ending is a `finish`. -/
structure PollUser (label : Poll → Seq) (ending : State → State) : Prop where
  steps : ∀ p s, s.seqr.seq = label p → seqStep s = pollStep label ending p s
  notIdle : ∀ p, label p ≠ .idle
  finishes : ∀ s, (ending s).seqr.seq = .idle
  anyLabel : ∀ l s, ending (goto l s) = ending s

theorem logPollUser : PollUser .logPoll logEnding :=
  ⟨fun p s h => by simp [seqStep, h], by simp, fun _ => rfl, fun _ _ => rfl⟩

theorem waitPollUser : PollUser .waitPoll waitEnding :=
  ⟨fun p s h => by simp [seqStep, h], by simp, fun _ => rfl, fun _ _ => rfl⟩

/-- The poll loop from a probe with `n + 1` attempts left, on a device that answers: it ends in `finish` after the probes of
`pollTrace`, with `PEXH` set if the last of them was not Ok. -/
theorem runSeq_probe {label : Poll → Seq} {ending : State → State} (u : PollUser label ending) (n : Nat) :
    ∀ (att fuel : Nat) (s : State), s.params.device ≠ .silent → att + n + 1 = Config.maxAttempts → 2 * n + 2 ≤ fuel →
      runSeq fuel (probeStep label (att + 1) s)
        = ending (markExhausted (pollTrace s.params (n + 1) (deviceOf s)).1
            (afterProbes att (pollTrace s.params (n + 1) (deviceOf s)).1 (pollTrace s.params (n + 1) (deviceOf s)).2 s)) := by
  induction n with
  | zero =>
    intro att fuel s hd hatt hfuel
    obtain ⟨r, d, hr⟩ := answerOf_isSome (deviceOf s) (probe s.params) hd
    rw [probeStep_some hr, afterProbes_one]
    obtain ⟨k, rfl⟩ : ∃ k, fuel = k + 2 := ⟨fuel - 2, by omega⟩
    by_cases hok : r.status = .ok
    · simp only [hok, if_true]
      rw [runSeq_one _ (u.notIdle _) (by rw [u.steps _ _ rfl]; exact u.finishes _), u.steps _ _ rfl]
      simp [pollTrace, hr, hok, pollStep, markExhausted, u.anyLabel]
    · rw [runSeq_succ _ (u.notIdle _), u.steps _ _ rfl]
      have hlast : ¬ att + 1 < Config.maxAttempts := by omega
      simp only [hok, if_false, pollStep, delayStep, goto_seqr_att, afterProbes_att, List.length_cons, List.length_nil,
        Nat.zero_add, hlast, delay_eq, goto_goto]
      rw [runSeq_one _ (u.notIdle _) (by rw [u.steps _ _ rfl]; exact u.finishes _), u.steps _ _ rfl]
      simp [pollTrace, hr, hok, pollStep, markExhausted, u.anyLabel]
  | succ n ih =>
    intro att fuel s hd hatt hfuel
    obtain ⟨r, d, hr⟩ := answerOf_isSome (deviceOf s) (probe s.params) hd
    rw [probeStep_some hr, afterProbes_one]
    obtain ⟨k, rfl⟩ : ∃ k, fuel = k + 2 := ⟨fuel - 2, by omega⟩
    by_cases hok : r.status = .ok
    · simp only [hok, if_true]
      rw [runSeq_one _ (u.notIdle _) (by rw [u.steps _ _ rfl]; exact u.finishes _), u.steps _ _ rfl]
      simp [pollTrace, hr, hok, pollStep, markExhausted, u.anyLabel]
    · rw [runSeq_succ _ (u.notIdle _), u.steps _ _ rfl]
      have hmore : att + 1 < Config.maxAttempts := by omega
      simp only [hok, if_false, pollStep, delayStep, goto_seqr_att, afterProbes_att, List.length_cons, List.length_nil,
        Nat.zero_add, hmore, if_true, delay_eq, goto_goto]
      rw [runSeq_succ _ (u.notIdle _), u.steps _ _ rfl]
      simp only [pollStep, goto_seqr_att, afterProbes_att, List.length_cons, List.length_nil, Nat.zero_add]
      rw [ih (att + 1) k _ (by simpa using hd) (by omega) (by omega)]
      have htrace : pollTrace s.params (n + 1 + 1) (deviceOf s)
          = (r.status :: (pollTrace s.params (n + 1) d).1, (pollTrace s.params (n + 1) d).2) := by
        rw [pollTrace.eq_2, hr]; simp [hok]
      rw [htrace]
      simp only [goto_params, afterProbes_params, deviceOf_goto, deviceOf_afterProbes]
      have hlast : (r.status :: (pollTrace s.params (n + 1) d).1).getLast? = (pollTrace s.params (n + 1) d).1.getLast? := by
        have hne : (pollTrace s.params (n + 1) d).1 ≠ [] := by
          obtain ⟨r', d', hr'⟩ := answerOf_isSome d (probe s.params) hd
          rw [pollTrace.eq_2, hr']; by_cases h : r'.status = .ok <;> simp [h]
        cases hl : (pollTrace s.params (n + 1) d).1 with
        | nil => exact absurd hl hne
        | cons x l => simp [List.getLast?_cons]
      have hgoto : ∀ (t : State), afterProbes (att + 1) (pollTrace s.params (n + 1) d).1 (pollTrace s.params (n + 1) d).2
          (goto (label .again) t) = goto (label .again)
            (afterProbes (att + 1) (pollTrace s.params (n + 1) d).1 (pollTrace s.params (n + 1) d).2 t) := fun t => rfl
      rw [hgoto, afterProbes_cons]
      unfold markExhausted
      rw [hlast]
      split
      · rw [u.anyLabel]
      · rw [setExhausted_goto, u.anyLabel]

/-- The first step of a poll loop is its first probe. -/
theorem runSeq_first {label : Poll → Seq} {ending : State → State} (u : PollUser label ending) (fuel : Nat) (s : State)
    (hd : s.params.device ≠ .silent) (hfuel : 2 * Config.maxAttempts + 1 ≤ fuel) (hs : s.seqr.seq = label .first) :
    runSeq fuel s
      = ending (markExhausted (pollTrace s.params Config.maxAttempts (deviceOf s)).1
          (afterProbes 0 (pollTrace s.params Config.maxAttempts (deviceOf s)).1
            (pollTrace s.params Config.maxAttempts (deviceOf s)).2 s)) := by
  obtain ⟨k, rfl⟩ : ∃ k, fuel = k + 1 := ⟨fuel - 1, by simp only [Config.maxAttempts] at hfuel; omega⟩
  rw [runSeq_succ _ (hs ▸ u.notIdle _), u.steps _ _ hs]
  exact runSeq_probe u 99 0 k s hd rfl (by simp only [Config.maxAttempts] at hfuel; omega)

/-! Each command, from its acceptance to its `finish`. -/

/-- What a trace of probes looks like: at least one on a device that answers, at most `n`, none but the last one Ok, and the
last one Ok unless there are `n`. -/
theorem pollTrace_shape (p : Params) (n : Nat) (d : Device) (hd : p.device ≠ .silent) :
    (pollTrace p (n + 1) d).1 ≠ [] ∧ (pollTrace p (n + 1) d).1.length ≤ n + 1
    ∧ (∀ st ∈ (pollTrace p (n + 1) d).1.dropLast, st ≠ .ok)
    ∧ ((pollTrace p (n + 1) d).1.getLast? = some .ok ∨ (pollTrace p (n + 1) d).1.length = n + 1) := by
  induction n generalizing d with
  | zero =>
    obtain ⟨r, d', hr⟩ := answerOf_isSome d (probe p) hd
    by_cases h : r.status = .ok <;> simp [pollTrace, hr, h]
  | succ n ih =>
    obtain ⟨r, d', hr⟩ := answerOf_isSome d (probe p) hd
    rw [pollTrace.eq_2, hr]
    by_cases h : r.status = .ok
    · simp [h]
    · obtain ⟨h1, h2, h3, h4⟩ := ih d'
      simp only [h, if_false]
      refine ⟨by simp, by simp only [List.length_cons]; omega, ?_, ?_⟩
      · rw [List.dropLast_cons_of_ne_nil h1]
        intro st hst
        rcases List.mem_cons.mp hst with rfl | hst
        · exact h
        · exact h3 st hst
      · rcases h4 with h4 | h4
        · left; rw [List.getLast?_cons, h4]; rfl
        · right; simp [h4]

theorem issued_params (arg cmd : Word) (s : State) : (issued arg cmd s).params = s.params := rfl

/-- WAIT_COMPLETE on a device that answers. -/
theorem runCommand_waitComplete {s : State} (a : Half) (arg : Word) (hb : s.host.status.busy = false)
    (hd : s.params.device ≠ .silent) :
    runCommand arg (commandWord a 5#4) s
      = waitEnding (markExhausted (pollTrace s.params Config.maxAttempts (deviceOf s)).1
          (afterProbes 0 (pollTrace s.params Config.maxAttempts (deviceOf s)).1
            (pollTrace s.params Config.maxAttempts (deviceOf s)).2 (issued arg (commandWord a 5#4) s))) := by
  rw [runCommand_idle _ _ hb]
  exact runSeq_first waitPollUser _ _ hd (by decide) (by simp [issued, decodeH_commandWord_5, startOf])

/-- LOG_DATA past its checks, when its data write is answered. -/
theorem logDataStep_some {s : State} {a c : Half} {r : BusResponse} {d : Device} (ha : s.seqr.lAddr = a)
    (hc : enc s.seqr.lArg = c) (h1 : capOk a = true) (h2 : pageOk a = true)
    (hr : answerOf s.params ⟨.write, s.params.devAddr, (logPayload a c).bytes, 0⟩ (deviceOf s) = some (r, d)) :
    logDataStep s = goto (if r.status = .ok then .logPoll .first else .logFail)
      (recordTransfer ⟨.write, s.params.devAddr, (logPayload a c).bytes, 0⟩ r
        (withDevice d (loadTx (logPayload a c) s))) := by
  subst ha hc
  simp only [logDataStep, addrOperand, h1, h2, Bool.true_eq_false, if_false, dataWriteStep, tempOperand]
  rw [xfer_eq]
  simp only [loadTx_params, deviceOf_loadTx, hr]
  rfl

/-- READ_DATA past its check, when its read-back is answered. -/
theorem readDataStep_some {s : State} {a : Half} {r : BusResponse} {d : Device} (ha : s.seqr.lAddr = a)
    (h1 : readOk a = true)
    (hr : answerOf s.params ⟨.writeRead, s.params.devAddr, readPayload a, 2⟩ (deviceOf s) = some (r, d)) :
    readDataStep s = goto (if r.status = .ok then .readDone else .readFail)
      (recordTransfer ⟨.writeRead, s.params.devAddr, readPayload a, 2⟩ r (withDevice d s)) := by
  subst ha
  simp only [readDataStep, addrOperand, h1, Bool.true_eq_false, if_false]
  rw [xfer_eq, hr]
  rfl

/-- The state after LOG_DATA's data write was answered. -/
def afterDataWrite (a : Half) (f : Word) (r : BusResponse) (d : Device) (s : State) : State :=
  recordTransfer ⟨.write, s.params.devAddr, (logPayload a (enc f)).bytes, 0⟩ r
    (withDevice d (loadTx (logPayload a (enc f)) (issued f (commandWord a 3#4) s)))

theorem issued_logData_seq (a : Half) (f : Word) (s : State) : (issued f (commandWord a 3#4) s).seqr.seq = .logData := by
  simp [issued, decodeH_commandWord_3, startOf]

theorem issued_readData_seq (a : Half) (f : Word) (s : State) : (issued f (commandWord a 4#4) s).seqr.seq = .readData := by
  simp [issued, decodeH_commandWord_4, startOf]

/-- LOG_DATA whose data write is not Ok. -/
theorem runCommand_logData_failed {s : State} {a : Half} {f : Word} {r : BusResponse} {d : Device}
    (hb : s.host.status.busy = false) (h1 : capOk a = true) (h2 : pageOk a = true)
    (hr : answerOf s.params ⟨.write, s.params.devAddr, (logPayload a (enc f)).bytes, 0⟩ (deviceOf s) = some (r, d))
    (hok : r.status ≠ .ok) :
    runCommand f (commandWord a 3#4) s = logFailStep (afterDataWrite a f r d s) := by
  have hseq := issued_logData_seq a f s
  rw [runCommand_idle _ _ hb, show longestCommand = 200 + 1 + 1 from rfl, runSeq_succ _ (by simp [hseq])]
  have hstep : seqStep (issued f (commandWord a 3#4) s) = logDataStep (issued f (commandWord a 3#4) s) := by
    simp [seqStep, hseq]
  rw [hstep, logDataStep_some (s := issued f (commandWord a 3#4) s) (a := a) (c := enc f) (by simp [issued]) (by simp [issued]) h1 h2 hr]
  simp only [hok, if_false]
  rw [runSeq_one _ (by simp) (by simp [seqStep, logFailStep])]
  rfl

/-- LOG_DATA whose data write is Ok: the poll loop, and success whatever it observed (R153). -/
theorem runCommand_logData_written {s : State} {a : Half} {f : Word} {r : BusResponse} {d : Device}
    (hb : s.host.status.busy = false) (h1 : capOk a = true) (h2 : pageOk a = true)
    (hr : answerOf s.params ⟨.write, s.params.devAddr, (logPayload a (enc f)).bytes, 0⟩ (deviceOf s) = some (r, d))
    (hd : s.params.device ≠ .silent) (hok : r.status = .ok) :
    runCommand f (commandWord a 3#4) s
      = logEnding (markExhausted (pollTrace s.params Config.maxAttempts d).1
          (afterProbes 0 (pollTrace s.params Config.maxAttempts d).1
            (pollTrace s.params Config.maxAttempts d).2 (afterDataWrite a f r d s))) := by
  have hseq := issued_logData_seq a f s
  rw [runCommand_idle _ _ hb, show longestCommand = 201 + 1 from rfl, runSeq_succ _ (by simp [hseq])]
  have hstep : seqStep (issued f (commandWord a 3#4) s) = logDataStep (issued f (commandWord a 3#4) s) := by
    simp [seqStep, hseq]
  rw [hstep, logDataStep_some (s := issued f (commandWord a 3#4) s) (a := a) (c := enc f) (by simp [issued]) (by simp [issued]) h1 h2 hr]
  simp only [hok, if_true]
  refine (runSeq_first logPollUser _ _ ?_ (by decide) rfl).trans ?_
  · exact hd
  · unfold markExhausted
    split <;> split <;> first | rfl | (exfalso; contradiction)

/-- READ_DATA whose read-back is answered. -/
theorem runCommand_readData {s : State} {a : Half} {arg : Word} {r : BusResponse} {d : Device}
    (hb : s.host.status.busy = false) (h1 : readOk a = true)
    (hr : answerOf s.params ⟨.writeRead, s.params.devAddr, readPayload a, 2⟩ (deviceOf s) = some (r, d)) :
    runCommand arg (commandWord a 4#4) s
      = (if r.status = .ok then readDoneStep else readFailStep)
          (recordTransfer ⟨.writeRead, s.params.devAddr, readPayload a, 2⟩ r
            (withDevice d (issued arg (commandWord a 4#4) s))) := by
  have hseq := issued_readData_seq a arg s
  rw [runCommand_idle _ _ hb, show longestCommand = 200 + 1 + 1 from rfl, runSeq_succ _ (by simp [hseq])]
  have hstep : seqStep (issued arg (commandWord a 4#4) s) = readDataStep (issued arg (commandWord a 4#4) s) := by
    simp [seqStep, hseq]
  rw [hstep, readDataStep_some (s := issued arg (commandWord a 4#4) s) (a := a) (by simp [issued]) h1 hr]
  by_cases hok : r.status = .ok
  · simp only [hok, if_true]
    rw [runSeq_one _ (by simp) (by simp [seqStep, readDoneStep])]
    rfl
  · simp only [hok, if_false]
    rw [runSeq_one _ (by simp) (by simp [seqStep, readFailStep])]
    rfl

end Sys2Proof.Machine
end

