-- ==== Sys2Proof/Laws/Simulator.lean ====
section
/-! SUPPORT. What a bus request at the simulator, and at any device, can do: by cases, its frame, and the invariant it keeps. -/

namespace Sys2Proof.Machine

/-- The five outcomes of a write phase (R182 to R186). -/
theorem handleWrite_cases (T : Nat) (tx : List Byte) (m : Simulator) :
    (m.busyf = true ∧ handleWrite T tx m = busyStep T m)
    ∨ (m.busyf = false ∧ tx.length < 2 ∧ handleWrite T tx m = (plainAnswer .ok, m))
    ∨ (m.busyf = false ∧ tx.length = 2
      ∧ handleWrite T tx m = (plainAnswer .ok, { m with ptr := BitVec.ofNat 16 (writeAddress tx) }))
    ∨ (m.busyf = false ∧ 3 ≤ tx.length ∧ Config.capacity < writeAddress tx + (writeData tx).length
      ∧ handleWrite T tx m = (plainAnswer .generalError, m))
    ∨ (m.busyf = false ∧ 3 ≤ tx.length ∧ writeAddress tx + (writeData tx).length ≤ Config.capacity
      ∧ handleWrite T tx m = (plainAnswer .ok,
          { m with mem := m.mem.writeBytes (writeAddress tx) (writeData tx), busyf := true, bcnt := 0#16 })) := by
  cases hb : m.busyf
  · unfold handleWrite dataWrite
    simp only [hb, Bool.false_eq_true, if_false]
    right
    split_ifs
    · left; exact ⟨trivial, by omega, rfl⟩
    · left; exact ⟨trivial, by omega, rfl⟩
    · right; left; exact ⟨trivial, by omega, by unfold idleAddress; rw [← hb]⟩
    · right; right; left; exact ⟨trivial, by omega, by omega, rfl⟩
    · right; right; right; exact ⟨trivial, by omega, by omega, rfl⟩
  · left; exact ⟨rfl, handleWrite_busy hb⟩

/-- A write phase stores nothing outside its data bytes, and only a two-byte one moves PTR. -/
theorem handleWrite_frame (T : Nat) (tx : List Byte) (m : Simulator) :
    (∀ x : Nat, ¬ (writeAddress tx ≤ x ∧ x < writeAddress tx + (writeData tx).length) →
      (handleWrite T tx m).2.mem.read x = m.mem.read x)
    ∧ (tx.length ≠ 2 → (handleWrite T tx m).2.ptr = m.ptr) := by
  rcases handleWrite_cases T tx m with
    ⟨_, e⟩ | ⟨_, _, e⟩ | ⟨_, h1, e⟩ | ⟨_, _, _, e⟩ | ⟨_, _, _, e⟩ <;> simp only [e]
  · rw [(busyStep_frame _ _).1, (busyStep_frame _ _).2]; simp
  · simp
  · simp [h1]
  · simp
  · exact ⟨fun x hx => Memory.read_writeBytes_outside hx, by simp⟩

/-- The frame of any request. -/
theorem onBus_frame (T : Nat) (q : BusRequest) (m : Simulator) :
    (∀ x : Nat, (¬ (writeAddress q.tx ≤ x ∧ x < writeAddress q.tx + (writeData q.tx).length) ∨ q.kind = .read) →
      (onBus T q m).2.mem.read x = m.mem.read x)
    ∧ (q.kind = .read → (onBus T q m).2.mem = m.mem)
    ∧ ((q.kind = .read ∨ q.tx.length ≠ 2) → (onBus T q m).2.ptr = m.ptr) := by
  have hw := handleWrite_frame T q.tx m
  unfold onBus
  cases q.kind
  · exact ⟨fun x hx => hw.1 x (by simpa using hx), by simp, by simpa using hw.2⟩
  · have := handleRead_frame T q.rxlen m
    simp [this]
  · have hf : (handleWriteRead T q.tx q.rxlen m).2.mem = (handleWrite T q.tx m).2.mem
        ∧ (handleWriteRead T q.tx q.rxlen m).2.ptr = (handleWrite T q.tx m).2.ptr := by
      unfold handleWriteRead; split
      · exact handleRead_frame _ _ _
      · exact ⟨rfl, rfl⟩
    simp only [hf]
    exact ⟨fun x hx => hw.1 x (by simpa using hx), by simp, by simpa using hw.2⟩

/-- A read phase that finds the simulator idle changes nothing (R187). -/
theorem handleRead_idle_state {m : Simulator} (T n : Nat) (h : m.busyf = false) : (handleRead T n m).2 = m := by
  rw [handleRead_idle h]; unfold idleRead; split <;> rfl

/-- Any request that meets the simulator busy is one busy step (R182, R189). -/
theorem onBus_busy {m : Simulator} (T : Nat) (q : BusRequest) (h : m.busyf = true) : onBus T q m = busyStep T m := by
  unfold onBus
  cases q.kind
  · exact handleWrite_busy h
  · exact handleRead_busy h
  · exact handleWriteRead_busy h

/-- On an idle simulator the busy pair changes only where a write phase stores data (R186): a WRITE starts a busy period, and
the read phase of a WRITEREAD meets it. -/
theorem onBus_busyPair_idle {m : Simulator} (T : Nat) (q : BusRequest) (h : m.busyf = false) :
    ((q.kind = .read ∨ ¬ (3 ≤ q.tx.length ∧ writeAddress q.tx + (writeData q.tx).length ≤ Config.capacity)) →
      (onBus T q m).2.busyf = m.busyf ∧ (onBus T q m).2.bcnt = m.bcnt)
    ∧ (3 ≤ q.tx.length ∧ writeAddress q.tx + (writeData q.tx).length ≤ Config.capacity →
      (q.kind = .write → ((onBus T q m).2.busyf, (onBus T q m).2.bcnt) = (true, 0#16))
      ∧ (q.kind = .writeRead →
        ((onBus T q m).2.busyf, (onBus T q m).2.bcnt) = if T ≤ 1 then (false, 0#16) else (true, 1#16))) := by
  have rd := handleRead_idle_state T q.rxlen h
  rcases handleWrite_cases T q.tx m with ⟨hb, _⟩ | ⟨_, h1, e⟩ | ⟨_, h1, e⟩ | ⟨_, h1, h2, e⟩ | ⟨_, h1, h2, e⟩
  · rw [h] at hb; cases hb
  · refine ⟨fun _ => ?_, fun hs => by omega⟩
    unfold onBus; cases q.kind <;> simp [handleWriteRead, e, plainAnswer, rd]
  · have rp := handleRead_idle_state (m := { m with ptr := BitVec.ofNat 16 (writeAddress q.tx) }) T q.rxlen h
    refine ⟨fun _ => ?_, fun hs => by omega⟩
    unfold onBus; cases q.kind <;> simp [handleWriteRead, e, plainAnswer, rd, rp]
  · refine ⟨fun _ => ?_, fun hs => by omega⟩
    unfold onBus; cases q.kind <;> simp [handleWriteRead, e, plainAnswer, rd]
  · refine ⟨fun hc => ?_, fun _ => ⟨fun hk => by simp only [onBus, hk, e], fun hk => ?_⟩⟩
    · rcases hc with hc | hc
      · simp [onBus, hc, rd]
      · exact absurd ⟨h1, h2⟩ hc
    · simp only [onBus, hk, handleWriteRead, e, plainAnswer, if_true, handleRead, busyStep]
      by_cases hT : T ≤ 1 <;> simp [hT]

/-! The simulator's own invariant. -/

theorem busyStep_good {T : Nat} {m : Simulator} (hT : 1 ≤ T ∧ T ≤ 65535) (h : m.good T) (hb : m.busyf = true) :
    (busyStep T m).2.good T := by
  obtain ⟨h1, h2, h3, h4⟩ := h
  unfold busyStep
  split
  · exact ⟨h1, h2, by show (0#16).toNat < T; simp; omega, fun _ => rfl⟩
  · refine ⟨h1, h2, ?_, by simp [hb]⟩
    show (m.bcnt + 1#16).toNat < T
    rw [BitVec.toNat_add]; simp; omega

theorem handleWrite_good {T : Nat} {m : Simulator} (tx : List Byte) (hT : 1 ≤ T ∧ T ≤ 65535) (h : m.good T) :
    (handleWrite T tx m).2.good T := by
  rcases handleWrite_cases T tx m with
    ⟨hb, e⟩ | ⟨_, _, e⟩ | ⟨_, _, e⟩ | ⟨_, _, _, e⟩ | ⟨_, _, hc, e⟩ <;> rw [e]
  · exact busyStep_good hT h hb
  · exact h
  · exact h
  · exact h
  · exact ⟨Memory.writeBytes_wf _ _ h.1, Memory.writeBytes_inCapacity h.2.1 hc, by show (0#16).toNat < T; simp; omega,
      by simp⟩

theorem handleRead_good {T : Nat} {m : Simulator} (n : Nat) (hT : 1 ≤ T ∧ T ≤ 65535) (h : m.good T) :
    (handleRead T n m).2.good T := by
  unfold handleRead
  split
  · exact busyStep_good hT h ‹_›
  · unfold idleRead; split <;> exact h

/-- Every request keeps the simulator good: its memory canonical and in range, and the counter law of R195. -/
theorem onBus_good {T : Nat} {m : Simulator} (q : BusRequest) (hT : 1 ≤ T ∧ T ≤ 65535) (h : m.good T) :
    (onBus T q m).2.good T := by
  unfold onBus
  cases q.kind
  · exact handleWrite_good _ hT h
  · exact handleRead_good _ hT h
  · show (handleWriteRead T q.tx q.rxlen m).2.good T
    unfold handleWriteRead; split
    · exact handleRead_good _ hT (handleWrite_good _ hT h)
    · exact handleWrite_good _ hT h

/-- The memory after reset is in canonical form. -/
theorem reset_mem_wf : State.reset.sim.mem.wf := Memory.wf_nil

/-- The simulator's initial state is good for every legal `T`. -/
theorem initial_good {T : Nat} (h : 1 ≤ T) : Simulator.initial.good T :=
  ⟨Memory.wf_nil, Memory.inCapacity_nil, by simp [Simulator.initial]; omega, fun _ => rfl⟩

/-! Any device. -/

/-- What an answer may change, whichever device gives it. -/
theorem answerOf_frame {p : Params} {q : BusRequest} {d d' : Device} {r : BusResponse}
    (ha : answerOf p q d = some (r, d')) :
    (p.device ≠ .simulator → d'.sim = d.sim)
    ∧ (p.device ≠ .real → d'.oracle = d.oracle ∧ d'.draws = d.draws)
    ∧ ((q.kind = .read ∨ q.tx.length ≠ 2) → d'.sim.ptr = d.sim.ptr)
    ∧ (∀ x, (¬ (writeAddress q.tx ≤ x ∧ x < writeAddress q.tx + (writeData q.tx).length) ∨ q.kind = .read) →
      d'.sim.mem.read x = d.sim.mem.read x) := by
  cases hd : p.device
  · rw [answerOf_simulator _ _ hd] at ha
    injection ha with ha; injection ha with _ ha; subst ha
    obtain ⟨o1, _, o3⟩ := onBus_frame p.threshold q d.sim
    exact ⟨by simp, fun _ => ⟨rfl, rfl⟩, o3, o1⟩
  · have := answerOf_real_sim (by simp [hd]) ha
    exact ⟨fun _ => this, by simp, fun _ => by rw [this], fun _ _ => by rw [this]⟩
  · rw [answerOf_silent _ _ hd] at ha; cases ha

/-- An answer keeps the simulator good. -/
theorem answerOf_good {p : Params} {q : BusRequest} {d d' : Device} {r : BusResponse} (hp : p.legal)
    (h : d.sim.good p.threshold) (ha : answerOf p q d = some (r, d')) : d'.sim.good p.threshold := by
  by_cases hs : p.device = .simulator
  · rw [answerOf_simulator d q hs] at ha
    injection ha with ha; injection ha with _ ha; subst ha
    exact onBus_good q hp h
  · rw [answerOf_real_sim hs ha]; exact h

end Sys2Proof.Machine
end

