-- ==== Sys2Proof/Laws/Step.lean ====
section
/-! SUPPORT. What a step of the sequencer, a run of a command and a testbench's request leave alone, and a command packet's meaning. -/

namespace Sys2Proof.Machine

/-- What no step of the sequencer changes: the parameters, the pending events, the latched answers, CMD_ARG, CMD and the
latched operands. -/
structure SameOutside (s t : State) : Prop where
  params  : t.params = s.params
  inputs  : t.env.inputs = s.env.inputs
  hostOut : t.env.hostOut = s.env.hostOut
  busOut  : t.env.busOut = s.env.busOut
  ctlOut  : t.env.ctlOut = s.env.ctlOut
  cmdArg  : t.host.cmdArg = s.host.cmdArg
  cmd     : t.host.cmd = s.host.cmd
  lOp     : t.seqr.lOp = s.seqr.lOp
  lAddr   : t.seqr.lAddr = s.seqr.lAddr
  lArg    : t.seqr.lArg = s.seqr.lArg

theorem SameOutside.refl (s : State) : SameOutside s s := by constructor <;> rfl

theorem SameOutside.trans {s t u : State} (h : SameOutside s t) (k : SameOutside t u) : SameOutside s u :=
  ⟨k.params.trans h.params, k.inputs.trans h.inputs, k.hostOut.trans h.hostOut, k.busOut.trans h.busOut,
    k.ctlOut.trans h.ctlOut, k.cmdArg.trans h.cmdArg, k.cmd.trans h.cmd, k.lOp.trans h.lOp, k.lAddr.trans h.lAddr,
    k.lArg.trans h.lArg⟩

theorem probeStep_outside (label : Poll → Seq) (n : Nat) (s : State) : SameOutside s (probeStep label n s) := by
  cases h : answerOf s.params (probe s.params) (deviceOf s) with
  | none => rw [probeStep_none h]; exact .refl s
  | some x => rw [probeStep_some (r := x.1) (d := x.2) h]; constructor <;> rfl

theorem seqStep_outside (s : State) : SameOutside s (seqStep s) := by
  unfold seqStep
  cases s.seqr.seq with
  | logPoll p =>
    cases p <;> first | exact probeStep_outside _ _ s | (constructor <;> rfl)
  | waitPoll p =>
    cases p <;> first | exact probeStep_outside _ _ s | (constructor <;> rfl)
  | logData =>
    simp only [logDataStep, dataWriteStep]
    split_ifs
    · constructor <;> rfl
    · constructor <;> rfl
    · rw [xfer_eq]
      cases answerOf _ _ (deviceOf _) <;> constructor <;> rfl
  | readData =>
    simp only [readDataStep]
    split_ifs
    · constructor <;> rfl
    · rw [xfer_eq]
      cases answerOf _ _ (deviceOf _) <;> constructor <;> rfl
  | _ => constructor <;> rfl

theorem runSeq_outside (n : Nat) (s : State) : SameOutside s (runSeq n s) :=
  runSeq_induct (P := SameOutside s) (fun t h => h.trans (seqStep_outside t)) n s (.refl s)

/-- A command packet leaves the parameters, the pending events and the latched answers alone. -/
theorem runCommand_outside (arg cmd : Word) (s : State) :
    (runCommand arg cmd s).params = s.params ∧ (runCommand arg cmd s).env.inputs = s.env.inputs
    ∧ (runCommand arg cmd s).env.hostOut = s.env.hostOut ∧ (runCommand arg cmd s).env.busOut = s.env.busOut
    ∧ (runCommand arg cmd s).env.ctlOut = s.env.ctlOut := by
  cases h : s.host.status.busy
  · rw [runCommand_idle _ _ h]
    have k := runSeq_outside longestCommand (issued arg cmd s)
    exact ⟨k.params, k.inputs, k.hostOut, k.busOut, k.ctlOut⟩
  · rw [runCommand_busy _ _ h]; simp

/-- A testbench's request: no answer, or the device's answer and nothing else. -/
theorem busRequest_cases (q : BusRequest) (s : State) :
    (busRequest q s = answerBus none s ∧ answerOf s.params q (deviceOf s) = none)
    ∨ ∃ r d, answerOf s.params q (deviceOf s) = some (r, d) ∧ busRequest q s = answerBus (some r) (withDevice d s) := by
  unfold busRequest
  rw [deviceAnswer_eq]
  cases h : answerOf s.params q (deviceOf s) with
  | none => exact .inl ⟨rfl, rfl⟩
  | some x => exact .inr ⟨x.1, x.2, rfl, rfl⟩

/-- What a reserved request changes: only the real device's draws and the latched answer. -/
theorem reservedBusRequest_frame (q : Word) (s : State) :
    (reservedBusRequest q s).params = s.params ∧ (reservedBusRequest q s).sim = s.sim
    ∧ (reservedBusRequest q s).host = s.host ∧ (reservedBusRequest q s).seqr = s.seqr
    ∧ (reservedBusRequest q s).env.traffic = s.env.traffic ∧ (reservedBusRequest q s).env.inputs = s.env.inputs := by
  have : ∀ n, (realAnswer n s).2.params = s.params ∧ (realAnswer n s).2.sim = s.sim ∧ (realAnswer n s).2.host = s.host
      ∧ (realAnswer n s).2.seqr = s.seqr ∧ (realAnswer n s).2.env.traffic = s.env.traffic
      ∧ (realAnswer n s).2.env.inputs = s.env.inputs := by
    intro n; unfold realAnswer; split <;> simp
  unfold reservedBusRequest; split <;> simp [this, reservedRequest]

/-- A format H instruction is the command its words name, and its meaning is the run of that command. -/
theorem exec_of_encode_h {i : Instr} {arg cmd : Word} (h : encode i = .h arg cmd) :
    decodeH arg cmd = .ok i ∧ ∀ s, exec i s = .next (runCommand arg cmd s) := by
  cases i <;> simp [encode] at h <;> obtain ⟨rfl, rfl⟩ := h <;> exact ⟨by simp [decodeH], fun s => rfl⟩

/-- No instruction's meaning stops. -/
theorem exec_next (i : Instr) (s : State) : ∃ t, exec i s = .next t := by cases i <;> exact ⟨_, rfl⟩

end Sys2Proof.Machine
end

