-- ==== Sys2Proof/Tests/Slice0.lean ====
section
/-! SUPPORT. The model's own tests: well-formedness, decoding of words written out from the spec, single steps with the results of 95_test_vectors.md, and a witness for the hypotheses of every obligation that has some. -/

namespace Sys2Proof.Tests

open Sys2Proof.Machine

/-! Helpers. -/

/-- The reset state with another busy threshold. -/
def withT (T : Nat) : State := { State.reset with params := { State.reset.params with threshold := T } }

/-- The reset state with events pending. -/
def pending (es : List Input) : State := withInputs es State.reset

/-- The reset state with a simulator that has counted `n` requests of its busy period of `T`. -/
def busySim (T : Nat) (n : Half) : State := withSim ⟨[], true, n, 0#16⟩ (withT T)

/-- A state with a real device that will give these answers. -/
def realDevice (answers : List BusResponse) : State :=
  { State.reset with
    params := { State.reset.params with device := .real }
    env := { State.reset.env with oracle := answers } }

/-- A state with a device that never answers. -/
def silent : State := { State.reset with params := { State.reset.params with device := .silent } }

/-- WAIT_COMPLETE after one failed probe and its delay, against a simulator with 49 busy requests left. -/
def running : State :=
  { busySim 50 1#16 with
    host := { HostRegs.cleared with
      cmd := 0x00000005#32, polls := 1#8, status := { Status.accepted with busst := .notAcknowledged } }
    seqr := { Sequencer.cleared with seq := .waitPoll .again, lOp := 5#4, att := 1 }
    env := { State.reset.env with traffic := [⟨probeRequest State.reset.params.devAddr, .notAcknowledged⟩] } }

/-- The next state, if there is one. -/
def nextOf : Host.Outcome State Fault Refusal → Option State
  | .next s => some s
  | .fault _ => none
  | .refused _ => none

/-- The state after the step that runs the packet with the given bits. -/
def afterWord (nbits w : Nat) (s : State) : Option State := nextOf (step (s.withFetchWord nbits w))

/-- What the host reads after it: STATUS, RESULT, RAW, POLLS. -/
def results (o : Option State) : Option (Word × Word × Half × Byte) :=
  o.map fun s => (s.host.status.word, s.host.result, s.host.raw, s.host.polls)

/-- The answer to a bus request, and the simulator after it. -/
def busResult (o : Option State) : Option (Option BusResponse × Simulator) := o.map fun s => (s.env.busOut, s.sim)

/-- The answer to a control word, and the simulator after it. -/
def ctlResult (o : Option State) : Option (ControlAnswer × Simulator) := o.map fun s => (s.env.ctlOut, s.sim)

/-! Well-formedness: the one check, with terms it refuses. -/

theorem test_wf_busWrite_256 : (Instr.busWrite 0x50#7 0#8 (List.replicate 256 0#8)).wellFormed = false := by decide +kernel
theorem test_wf_busWriteRead_256 : (Instr.busWriteRead 0x50#7 (List.replicate 256 0#8) 2#8).wellFormed = false := by decide +kernel
theorem test_wf_busWrite_255 : (Instr.busWrite 0x50#7 0#8 (List.replicate 255 0#8)).wellFormed = true := by decide +kernel

/-! Decoding: words written out bit by bit from R91 and R92 (ARG, then ADDR RSV OP), R97 (RXLEN TXLEN RSV DEV KIND) and R102
(INDEX RSV SOP), for the examples of 95_test_vectors.md. -/

theorem test_decode_ENCODE :
    decode (.h 0b01000001101101000000000000000000#32 0b00000000000000000000000000000001#32)
      = .ok (.encodeTemp 0#16 0x41B40000#32) := by decide

theorem test_decode_DECODE :
    decode (.h 0b00000000000000001100000110010000#32 0b00000000000000000000000000000010#32)
      = .ok (.decodeCode 0#16 0xC190#32) := by decide

theorem test_decode_LOG_DATA :
    decode (.h 0b01000001110010000000000000000000#32 0b01111111111111100000000000000011#32)
      = .ok (.logData 32766#16 0x41C80000#32) := by decide

theorem test_decode_READ_DATA :
    decode (.h 0b00000000000000000000000000000000#32 0b00000000001111010000000000000100#32)
      = .ok (.readData 61#16 0#32) := by decide

theorem test_decode_WAIT_COMPLETE :
    decode (.h 0b00000000000000000000000000000000#32 0b00000000000000000000000000000101#32)
      = .ok (.waitComplete 0#16 0#32) := by decide

theorem test_decode_BUS_WRITE :
    decode (.b 0b00000000000000110000000101000000#32 [0x7F#8, 0xFF#8, 0xAA#8])
      = .ok (.busWrite 0x50#7 0#8 [0x7F#8, 0xFF#8, 0xAA#8]) := by decide

theorem test_decode_BUS_READ :
    decode (.b 0b00000001000000000000000101000001#32 []) = .ok (.busRead 0x50#7 0#8 1#8) := by decide

theorem test_decode_BUS_WRITEREAD :
    decode (.b 0b00000010000001000000000101000010#32 [0x00#8, 0x04#8, 0x11#8, 0x22#8])
      = .ok (.busWriteRead 0x50#7 [0x00#8, 0x04#8, 0x11#8, 0x22#8] 2#8) := by decide

theorem test_decode_SIM_RESET : decode (.s 0b00000000000000000000000000000001#32) = .ok (.simReset 0#16) := by decide

theorem test_decode_SIM_PEEK : decode (.s 0b10000000000000000000000000000010#32) = .ok (.simPeek 32768#16) := by decide

theorem test_decode_SIM_GET_BUSY : decode (.s 0b00000000000000000000000000000011#32) = .ok (.simGetBusy 0#16) := by decide

theorem test_decode_SIM_GET_COUNT : decode (.s 0b00000000000000000000000000000100#32) = .ok (.simGetCount 0#16) := by decide

/-- Reserved words are refused by name (R94, R101, R102; 95_test_vectors.md 2.6 and 2.7). -/
theorem test_decode_reserved :
    decode (.h 0x00000000#32 0x00000000#32) = .error .reservedOpcode ∧ decode (.h 0#32 0x0000000F#32) = .error .reservedOpcode
    ∧ decode (.h 0x41B40000#32 0x00000013#32) = .error .reservedBits
    ∧ decode (.b 0x00000143#32 []) = .error .reservedKind ∧ decode (.b 0x00000340#32 []) = .error .reservedBits
    ∧ decode (.s 0x00000000#32) = .error .reservedControl ∧ decode (.s 0x00000012#32) = .error .reservedBits
    ∧ decode (.b 0x00020140#32 [0x00#8]) = .error .payloadLength := by decide

/-- The opcode table's numbers: the payload of a header-only word is zeros, and a 32-bit word that names a control operation
is read as one (log 3). -/
theorem test_decodeTableWord :
    decodeTableWord 64 0x41B4000000000001 = some (.encodeTemp 0#16 0x41B40000#32)
    ∧ decodeTableWord 32 0x00020140 = some (.busWrite 0x50#7 0#8 [0#8, 0#8])
    ∧ decodeTableWord 32 0x02000141 = some (.busRead 0x50#7 0#8 2#8)
    ∧ decodeTableWord 32 0x00000001 = some (.simReset 0#16) := by decide

/-! One step of each instruction (95_test_vectors.md; the section is named at each). -/

/-- 2.1: -1.99, truncation toward zero. -/
theorem test_ENCODE_truncates :
    results (afterWord 64 0xBFFEB85200000001 State.reset) = some (0x006#32, 0xFFFFFFE1#32, 0xFFE1#16, 0#8) := by decide

/-- 2.1: the largest finite pattern, and P3: 3000.0 wraps. -/
theorem test_ENCODE_wraps :
    results (afterWord 64 0x7F7FFFFF00000001 State.reset) = some (0x006#32, 0#32, 0#16, 0#8)
    ∧ results (afterWord 64 0x453B800000000001 State.reset) = some (0x006#32, 0xFFFFBB80#32, 0xBB80#16, 0#8) := by decide

/-- 2.2: the high half of ARG is ignored. -/
theorem test_DECODE_ignores_high_half :
    results (afterWord 64 0xDEAD016800000002 State.reset) = some (0x006#32, 0x41B40000#32, 0x0168#16, 0#8) := by decide

/-- 2.2: the smallest code, and 15.9375 below zero. -/
theorem test_DECODE_negative :
    results (afterWord 64 0x0000800000000002 State.reset) = some (0x006#32, 0xC5000000#32, 0x8000#16, 0#8)
    ∧ results (afterWord 64 0x0000FF0100000002 State.reset) = some (0x006#32, 0xC17F0000#32, 0xFF01#16, 0#8) := by decide

/-- P2 step 1, with T = 3: the sample is stored big-endian, and four probes are issued. -/
theorem test_LOG_DATA :
    results (afterWord 64 0x3F800000003C0003 (withT 3)) = some (0x006#32, 1#32, 0x0010#16, 4#8)
    ∧ (afterWord 64 0x3F800000003C0003 (withT 3)).map State.sim = some ⟨[(60, 0x00#8), (61, 0x10#8)], false, 0#16, 0#16⟩ := by
  decide

/-- P2 step 2, and W3: PAGE at 62, RANGE before PAGE at 32767. -/
theorem test_LOG_DATA_rejects :
    results (afterWord 64 0x40000000003E0003 (withT 3)) = some (0x202#32, 0#32, 0#16, 0#8)
    ∧ results (afterWord 64 0x400000007FFF0003 (withT 3)) = some (0x102#32, 0#32, 0#16, 0#8) := by decide

/-- P2 step 5: an odd address mixes two slots. -/
theorem test_READ_DATA :
    results (afterWord 64 0x00000000003D0004 (withSim ⟨[(60, 0x00#8), (61, 0x10#8)], false, 0#16, 0#16⟩ State.reset))
      = some (0x006#32, 0x4387F800#32, 0x10FF#16, 0#8) := by decide

/-- P4 step 2: a busy simulator. -/
theorem test_READ_DATA_busy :
    results (afterWord 64 0x0000000000000004 (busySim 150 100#16)) = some (0x2302#32, 0xC479C000#32, 0#16, 0#8)
    ∧ (afterWord 64 0x0000000000000004 (busySim 150 100#16)).map (fun s => s.sim.bcnt) = some 101#16 := by decide

/-- W9: an idle device with no write before. -/
theorem test_WAIT_COMPLETE_idle :
    results (afterWord 64 0x0000000000000005 State.reset) = some (0x006#32, 0#32, 0#16, 1#8) := by decide

/-- 2.5: Timeout, GeneralError, Ok from a real device. -/
theorem test_WAIT_COMPLETE_real :
    results (afterWord 64 0x0000000000000005 (realDevice [⟨.timeout, []⟩, ⟨.generalError, []⟩, ⟨.ok, []⟩]))
      = some (0x006#32, 0#32, 0#16, 3#8) := by decide

/-- 2.6 step 5: the last byte of the memory. -/
theorem test_BUS_WRITE_last_byte :
    busResult (nextOf (exec (.busWrite 0x50#7 0#8 [0x7F#8, 0xFF#8, 0xAA#8]) (withT 3)))
      = some (some ⟨.ok, []⟩, ⟨[(32767, 0xAA#8)], true, 0#16, 0#16⟩) := by decide

/-- 2.6 step 8: the write that ends the busy period is not acknowledged and not stored. -/
theorem test_BUS_WRITE_ends_busy :
    busResult (nextOf (exec (.busWrite 0x50#7 0#8 [0#8, 0#8, 1#8, 2#8]) (busySim 3 2#16)))
      = some (some ⟨.notAcknowledged, []⟩, ⟨[], false, 0#16, 0#16⟩) := by decide

/-- 2.6 step 4. -/
theorem test_BUS_READ :
    busResult (nextOf (exec (.busRead 0x50#7 0#8 2#8) (withT 3)))
      = some (some ⟨.ok, [0xFF#8, 0xFF#8]⟩, ⟨[], false, 0#16, 0#16⟩) := by decide

/-- 2.6 steps 12 and 13: a read past the end. -/
theorem test_BUS_READ_bounds :
    busResult (nextOf (exec (.busRead 0x50#7 0#8 1#8) (withSim ⟨[], false, 0#16, 0x8000#16⟩ State.reset)))
      = some (some ⟨.generalError, []⟩, ⟨[], false, 0#16, 0x8000#16⟩)
    ∧ busResult (nextOf (exec (.busRead 0x50#7 0#8 0#8) (withSim ⟨[], false, 0#16, 0x8000#16⟩ State.reset)))
      = some (some ⟨.ok, []⟩, ⟨[], false, 0#16, 0x8000#16⟩) := by decide

/-- 2.6 step 16. -/
theorem test_BUS_WRITEREAD :
    busResult (nextOf (exec (.busWriteRead 0x50#7 [0x7F#8, 0xFF#8] 1#8)
      (withSim ⟨[(32767, 0xAA#8)], false, 0#16, 0#16⟩ State.reset)))
      = some (some ⟨.ok, [0xAA#8]⟩, ⟨[(32767, 0xAA#8)], false, 0#16, 0x7FFF#16⟩) := by decide

/-- 2.6 step 17: the write phase starts the busy period the read phase meets. -/
theorem test_BUS_WRITEREAD_data :
    busResult (nextOf (exec (.busWriteRead 0x50#7 [0#8, 4#8, 0x11#8, 0x22#8] 2#8) (withT 3)))
      = some (some ⟨.notAcknowledged, []⟩, ⟨[(4, 0x11#8), (5, 0x22#8)], true, 1#16, 0#16⟩) := by decide

/-- 2.6 step 24. -/
theorem test_SIM_RESET :
    ctlResult (afterWord 32 0x00000001 (withSim ⟨[(4, 0x11#8)], true, 1#16, 5#16⟩ State.reset))
      = some (⟨false, 0#32⟩, ⟨[], false, 0#16, 0#16⟩) := by decide

/-- 2.6 steps 20 and 21. -/
theorem test_SIM_PEEK :
    ctlResult (afterWord 32 0x7FFF0002 (withSim ⟨[(32767, 0xAA#8)], true, 1#16, 0#16⟩ State.reset))
      = some (⟨false, 0x000000AA#32⟩, ⟨[(32767, 0xAA#8)], true, 1#16, 0#16⟩)
    ∧ ctlResult (afterWord 32 0x80000002 (busySim 3 1#16)) = some (⟨true, 0#32⟩, ⟨[], true, 1#16, 0#16⟩) := by decide

/-- 2.6 step 18. -/
theorem test_SIM_GET_BUSY :
    ctlResult (afterWord 32 0x00000003 (busySim 3 1#16)) = some (⟨false, 1#32⟩, ⟨[], true, 1#16, 0#16⟩) := by decide

/-- 2.6 step 19. -/
theorem test_SIM_GET_COUNT :
    ctlResult (afterWord 32 0x00000004 (busySim 3 2#16)) = some (⟨false, 2#32⟩, ⟨[], true, 2#16, 0#16⟩) := by decide

/-! Other events. -/

/-- 2.7: ILLEGAL. -/
theorem test_ILLEGAL :
    results (afterWord 64 0x41B4000000000013 State.reset) = some (0x402#32, 0#32, 0#16, 0#8) := by decide

/-- 2.7: a CMD write while a command runs keeps CMD and sets OVR. -/
theorem test_overrun :
    (nextOf (step (withInputs [.hostWrite 4 4 0x00000004#32] running))).map (fun s => (s.host.cmd, s.host.status.ovr))
      = some (0x00000005#32, true) := by decide

/-- 2.7: reset while a command runs leaves the simulator as it is. -/
theorem test_reset_mid_command :
    (nextOf (step (withInputs [.blockReset] running))).map (fun s => (s.host.status.word, s.host.polls, s.sim.bcnt))
      = some (0#32, 0#8, 1#16) := by decide

/-- 2.7: writes to STATUS and the reserved offsets are ignored. -/
theorem test_read_only_writes :
    (nextOf (step (pending [.hostWrite 4 8 0xFFFFFFFF#32]))).map State.host = some HostRegs.cleared
    ∧ (nextOf (step (pending [.hostWrite 4 0x1C 0xFFFFFFFF#32]))).map State.host = some HostRegs.cleared := by decide

/-- Section "Conventions": STATUS words. -/
theorem test_status_words :
    (doneStatus true false .noError .ok).word = 0x006#32
    ∧ { doneStatus true false .noError .ok with ovr := true }.word = 0x00E#32
    ∧ (doneStatus true true .noError .timeout).word = 0x3016#32 ∧ (doneStatus false false .bus .generalError).word = 0x1302#32
    ∧ (doneStatus false false .illegal .ok).word = 0x402#32 := by decide

/-- R108 and 2.1: literals rounded to nearest, ties to even. -/
theorem test_literals :
    DecimalLiteral.bin32 ⟨false, 2253, 2⟩ = 0x41B43D71#32 ∧ DecimalLiteral.bin32 ⟨true, 199, 2⟩ = 0xBFFEB852#32
    ∧ DecimalLiteral.bin32 ⟨false, 1, 45⟩ = 0x00000001#32 ∧ DecimalLiteral.bin32 ⟨true, 999, 0⟩ = 0xC479C000#32 := by
  decide +kernel

/-- A placed packet is what the next step runs. -/
theorem test_withFetchWord :
    step (State.reset.withFetchWord 64 0x0000000000000005) = exec (.waitComplete 0#16 0#32) State.reset := rfl

/-! Witnesses: for every obligation with hypotheses, a state and operands that meet them; where it has clauses, one for each. -/

theorem witness_DecodeOfEncode :
    (Instr.busWriteRead 127#7 (List.replicate 255 0xFF#8) 255#8).wellFormed = true := by decide +kernel

theorem witness_EncodeOfDecode : decode (.s 0xFFFF0004#32) = .ok (.simGetCount 0xFFFF#16) := by decide

theorem witness_CommandWord :
    2 ^ 64 - 1 < 2 ^ 64 ∧ (2 ^ 64 - 1) / 16 % 4096 ≠ 0 ∧ 0xFFFFFFFFFFFF0005 < 2 ^ 64
    ∧ 0xFFFFFFFFFFFF0005 / 16 % 4096 = 0 ∧ 0xFFFFFFFFFFFF0005 % 16 = 5 := by decide

theorem witness_BusAndControlWords :
    (0x00000003#32).toNat % 4 = 3 ∧ (0x0000FE00#32).toNat / 512 % 128 ≠ 0
    ∧ ((0x00FF01FC#32).toNat / 512 % 128 = 0 ∧ (0x00FF01FC#32).toNat % 4 = 0
        ∧ (List.replicate 255 0#8).length = (0x00FF01FC#32).toNat / 65536 % 256)
    ∧ ((0xFFFF01FD#32).toNat / 512 % 128 = 0 ∧ (0xFFFF01FD#32).toNat % 4 = 1)
    ∧ ((0xFF0001FE#32).toNat / 512 % 128 = 0 ∧ (0xFF0001FE#32).toNat % 4 = 2
        ∧ ([] : List Byte).length = (0xFF0001FE#32).toNat / 65536 % 256) := by decide +kernel

theorem witness_AssembledWords : (List.replicate 255 0xFF#8).length ≤ 255 := by decide +kernel

theorem witness_StepRuns :
    (pending [.packet (.h 0#32 5#32)]).env.inputs = .packet (.h 0#32 5#32) :: []
    ∧ decode (.h 0#32 5#32) = .ok (.waitComplete 0#16 0#32) := by decide

theorem witness_NothingHappens :
    State.reset.seqr.seq = .idle ∧ State.reset.env.inputs = []
    ∧ (pending [.sequencer]).seqr.seq = .idle ∧ (pending [.sequencer]).env.inputs = .sequencer :: []
    ∧ (pending [.hostWrite 4 28 1#32]).seqr.seq = .idle
    ∧ (pending [.hostWrite 4 28 1#32]).env.inputs = .hostWrite 4 28 1#32 :: [] ∧ 28 < 32 ∧ 28 % 4 = 0 ∧ 28 ≠ 4
    ∧ (pending [.hostRead 4 4]).seqr.seq = .idle ∧ (pending [.hostRead 4 4]).env.inputs = .hostRead 4 4 :: [] := by decide

theorem witness_Illegal :
    (pending [.packet (.h 1#32 6#32)]).env.inputs = .packet (.h 1#32 6#32) :: []
    ∧ (pending [.packet (.h 1#32 6#32)]).host.status.busy = false ∧ 6 ≤ (6#32).toNat % 16
    ∧ (0xFFFF0010#32).toNat / 16 % 4096 ≠ 0 ∧ (0x00010000#32).toNat % 16 = 0 := by decide

theorem witness_CommandWhileBusy :
    encode (.waitComplete 0#16 0#32) = .h 0#32 5#32 ∧ running.host.status.busy = true := by decide

theorem witness_ReservedWords :
    (pending [.packet (.b 0x00000143#32 [])]).env.inputs = .packet (.b 0x00000143#32 []) :: []
    ∧ (pending [.packet (.b 0x00000143#32 [])]).params.device = .simulator ∧ (0x00000143#32).toNat % 4 = 3
    ∧ (0x00000340#32).toNat / 512 % 128 ≠ 0
    ∧ (pending [.packet (.s 0x0000000F#32)]).env.inputs = .packet (.s 0x0000000F#32) :: []
    ∧ (pending [.packet (.s 0x0000000F#32)]).params.device = .simulator ∧ 5 ≤ (0x0000000F#32).toNat % 16
    ∧ (0x00000000#32).toNat % 16 = 0 ∧ (0x00000012#32).toNat / 16 % 4096 ≠ 0 := by decide

theorem witness_CommandPacket : State.reset.host.status.busy = false := by decide

theorem witness_Resets :
    (withInputs [.blockReset] running).env.inputs = .blockReset :: []
    ∧ (withInputs [.powerUp] running).env.inputs = .powerUp :: [] := by decide

theorem witness_HostWriteOfCmd :
    (withInputs [.hostWrite 4 4 3#32] running).env.inputs = .hostWrite 4 4 3#32 :: []
    ∧ (withInputs [.hostWrite 4 4 3#32] running).host.status.busy = true
    ∧ (pending [.hostWrite 4 4 3#32]).env.inputs = .hostWrite 4 4 3#32 :: []
    ∧ (pending [.hostWrite 4 4 3#32]).host.status.busy = false := by decide

theorem witness_OtherHostWrites :
    (withInputs [.hostWrite 4 0 3#32] running).env.inputs = .hostWrite 4 0 3#32 :: []
    ∧ (pending [.hostWrite 4 28 3#32]).env.inputs = .hostWrite 4 28 3#32 :: [] ∧ 8 ≤ 28 ∧ 28 < 32 ∧ 28 % 4 = 0 := by decide

theorem witness_HostRead :
    (pending [.hostRead 4 0x1C]).env.inputs = .hostRead 4 0x1C :: [] ∧ 0x1C < 32 ∧ 0x1C % 4 = 0 ∧ 0x18 ≤ 0x1C
    ∧ (withInputs [.hostRead 4 0x08] running).env.inputs = .hostRead 4 0x08 :: [] := by decide

theorem witness_OnlyAlignedWords :
    (pending [.hostRead 2 30]).env.inputs = .hostRead 2 30 :: [] ∧ 30 < 32 ∧ 2 ≠ 4
    ∧ (pending [.hostWrite 4 31 0#32]).env.inputs = .hostWrite 4 31 0#32 :: [] ∧ 31 % 4 ≠ 0
    ∧ (pending [.hostWrite 4 32 0#32]).env.inputs = .hostWrite 4 32 0#32 :: [] ∧ 32 ≤ 32 := by decide

/-- ENCODE, DECODE, and every other obligation whose only hypothesis on the state is that no command runs. -/
theorem witness_Idle : State.reset.host.status.busy = false ∧ (withT 65535).host.status.busy = false := by decide

theorem witness_FinitePatterns :
    expOf 0x7F7FFFFF#32 ≠ 255 ∧ expOf 0x00000001#32 ≠ 255 ∧ expOf 0x80000000#32 ≠ 255 := by decide

theorem witness_RoundTrip : (-32768 : Int) ≤ -32768 ∧ (32767 : Int) < 32768 ∧ expOf 0xC5000000#32 ≠ 255 := by decide

theorem witness_RoundTrip_value : real 0xC5000000#32 = ((-32768 : Int) : ℚ) / 16 := by
  have h : signOf 0xC5000000#32 = true ∧ significand 0xC5000000#32 = 8388608 ∧ scaleExp 0xC5000000#32 = 138 := by decide
  simp only [real, h.1, h.2.1, h.2.2]
  norm_num

theorem witness_ErrorBound : expOf 0x44FFFFAE#32 ≠ 255 ∧ -2048 < real 0x44FFFFAE#32 ∧ real 0x44FFFFAE#32 < 2048 := by
  have h : signOf 0x44FFFFAE#32 = false ∧ significand 0x44FFFFAE#32 = 16777134 ∧ scaleExp 0x44FFFFAE#32 = 137 := by decide
  refine ⟨by decide, ?_, ?_⟩ <;> simp only [real, h.1, h.2.1, h.2.2] <;> norm_num

theorem witness_Wrap : expOf 0x45000000#32 ≠ 255 ∧ 32767 < trunc (16 * real 0x45000000#32) := by
  have h : signOf 0x45000000#32 = false ∧ significand 0x45000000#32 = 8388608 ∧ scaleExp 0x45000000#32 = 138 := by decide
  have hr : 16 * real 0x45000000#32 = ((32768 : Int) : ℚ) := by
    simp only [real, h.1, h.2.1, h.2.2]; norm_num
  refine ⟨by decide, ?_⟩
  rw [hr, trunc, if_pos (by norm_num), Int.floor_intCast]; decide

theorem witness_Wrap_below : expOf 0xC5000800#32 ≠ 255 ∧ trunc (16 * real 0xC5000800#32) < -32768 := by
  have h : signOf 0xC5000800#32 = true ∧ significand 0xC5000800#32 = 8390656 ∧ scaleExp 0xC5000800#32 = 138 := by decide
  have hr : 16 * real 0xC5000800#32 = ((-32776 : Int) : ℚ) := by
    simp only [real, h.1, h.2.1, h.2.2]; norm_num
  refine ⟨by decide, ?_⟩
  rw [hr, trunc, if_neg (by norm_num), Int.ceil_intCast]; decide

theorem witness_BadAddresses :
    32767 ≤ (32767#16).toNat ∧ (32703#16).toNat ≤ 32765 ∧ 62 ≤ (32703#16).toNat % 64 ∧ 62 ≤ (62#16).toNat % 64 := by decide

theorem witness_acceptedAddress : acceptedAddress 0#16 ∧ acceptedAddress 61#16 ∧ acceptedAddress 32765#16
    ∧ acceptedAddress 32766#16 ∧ ¬ acceptedAddress 62#16 ∧ ¬ acceptedAddress 32767#16 := by
  unfold acceptedAddress; decide

theorem witness_FailedWrite :
    (realDevice [⟨.timeout, []⟩]).host.status.busy = false
    ∧ deviceAnswer (dataWriteRequest (realDevice [⟨.timeout, []⟩]).params.devAddr 0#16 (enc 0#32)) (realDevice [⟨.timeout, []⟩])
        = some (⟨.timeout, []⟩,
          { realDevice [] with env := { (realDevice []).env with draws := 1 } })
    ∧ BusStatus.timeout ≠ .ok := ⟨rfl, rfl, by decide⟩

theorem witness_IdleSimulator :
    State.reset.host.status.busy = false ∧ State.reset.params.device = .simulator ∧ State.reset.sim.busyf = false
    ∧ 1 ≤ (withT 1).params.threshold ∧ 1 ≤ (withT 100).params.threshold ∧ 1 ≤ (withT 101).params.threshold
    ∧ (withT 101).sim.busyf = false := by decide

theorem witness_BestEffort :
    (realDevice [⟨.ok, []⟩, ⟨.timeout, []⟩]).host.status.busy = false
    ∧ deviceAnswer (dataWriteRequest (realDevice []).params.devAddr 0#16 (enc 0#32)) (realDevice [⟨.ok, []⟩, ⟨.timeout, []⟩])
        = some (⟨.ok, []⟩,
          { realDevice [⟨.timeout, []⟩] with env := { (realDevice [⟨.timeout, []⟩]).env with draws := 1 } }) := ⟨rfl, rfl⟩

theorem witness_ReadAnswer :
    deviceAnswer (readBackRequest (realDevice []).params.devAddr 32766#16) (realDevice [⟨.ok, [0xC1#8, 0x90#8]⟩])
        = some (⟨.ok, [0xC1#8, 0x90#8]⟩, { realDevice [] with env := { (realDevice []).env with draws := 1 } })
    ∧ deviceAnswer (readBackRequest (realDevice []).params.devAddr 32766#16) (realDevice [⟨.notAcknowledged, []⟩])
        = some (⟨.notAcknowledged, []⟩, { realDevice [] with env := { (realDevice []).env with draws := 1 } })
    ∧ (32766#16).toNat ≤ 32766 := ⟨rfl, rfl, by decide⟩

theorem witness_BusySimulator :
    (busySim 50 49#16).host.status.busy = false ∧ (busySim 50 49#16).params.device = .simulator
    ∧ (busySim 50 49#16).sim.busyf = true ∧ (busySim 50 49#16).sim.bcnt.toNat < (busySim 50 49#16).params.threshold := by decide

theorem witness_LegalBusySimulator :
    (busySim 65535 0#16).params.legal ∧ (busySim 65535 0#16).sim.good (busySim 65535 0#16).params.threshold
    ∧ (withT 1).params.legal ∧ (withT 1).sim.good (withT 1).params.threshold := by
  unfold Params.legal Simulator.good; decide

/-- A device that answers, for the statements about every such device. -/
theorem witness_Answering :
    (realDevice []).params.device ≠ .silent ∧ State.reset.params.device ≠ .silent ∧ (realDevice []).host.status.busy = false := by
  decide

theorem witness_running_Inv : running.Inv where
  legal := by unfold Params.legal; decide
  simGood := by unfold Simulator.good; decide
  flags := by unfold flagsAgree; decide
  attRange := by decide
  counts := by
    show 1 ≤ running.seqr.att ∧ running.seqr.att < Config.maxAttempts ∧ running.host.polls.toNat = running.seqr.att
      ∧ running.env.traffic.length = 0 + running.seqr.att
    decide
  requests := by
    intro t ht
    rw [List.mem_singleton.mp ht]
    exact .inl rfl

theorem witness_RunningCommand : running.params.device ≠ .silent ∧ running.seqr.seq ≠ .idle := by decide

theorem witness_StepKeeps : ∃ t, step running = .next t := ⟨_, rfl⟩

theorem witness_Silent :
    silent.host.status.busy = false ∧ silent.params.device = .silent ∧ (32766#16).toNat ≤ 32766
    ∧ 32767 ≤ (32767#16).toNat := by decide

theorem witness_BusyPair :
    storesData [0x7F#8, 0xFF#8, 0xAA#8] ∧ ¬ storesData [0x7F#8, 0xFF#8, 0xAA#8, 0xAA#8] ∧ ¬ storesData [0#8, 0#8]
    ∧ State.reset.params.device = .simulator ∧ State.reset.sim.busyf = false
    ∧ (busySim 50 49#16).params.device = .simulator ∧ (busySim 50 49#16).sim.busyf = true := by
  unfold storesData; decide

/-- SIM_RESET, SIM_PEEK, SIM_GET_BUSY and SIM_GET_COUNT with the simulator as the device. -/
theorem witness_SimulatorOnTheBus : (busySim 3 1#16).params.device = .simulator := by decide

theorem witness_AnyDevice :
    (withInputs [.packet (.s 2#32)] silent).env.inputs = .packet (.s 2#32) :: []
    ∧ (withInputs [.packet (.s 2#32)] silent).params.device ≠ .simulator := by decide

theorem witness_CommandFrame :
    (Instr.logData 0#16 0#32).isCommand ∧ (Instr.readData 0#16 0#32).isCommand ∧ (realDevice []).params.device ≠ .simulator
    ∧ State.reset.params.device ≠ .real := ⟨⟨_, _, rfl⟩, ⟨_, _, rfl⟩, by decide, by decide⟩

theorem witness_ReadsBack :
    (withT 99).host.status.busy = false ∧ (withT 99).params.device = .simulator ∧ (withT 99).sim.busyf = false
    ∧ (withT 99).sim.mem.wf ∧ 1 ≤ (withT 99).params.threshold ∧ (withT 99).params.threshold ≤ 99
    ∧ (32766#16).toNat ≤ 32766 ∧ (32764#16).toNat + 2 ≤ (32766#16).toNat ∧ (0#16).toNat + 2 ≤ (2#16).toNat := by decide

theorem witness_Forget :
    (Instr.waitComplete 0#16 0#32).isCommand ∧ State.reset.host.status.busy = false
    ∧ { State.reset with host := { HostRegs.cleared with result := 1#32 } }.host.status.busy = false
    ∧ State.reset.params = { State.reset with host := { HostRegs.cleared with result := 1#32 } }.params :=
  ⟨⟨_, _, rfl⟩, by decide, by decide, rfl⟩

theorem witness_Bounds :
    ([0xAA#8] : List Byte) ≠ [] ∧ 32768 < (0x7F#8).toNat * 256 + (0xFF#8).toNat + [0xAA#8, 0xAA#8].length
    ∧ (0x7F#8).toNat * 256 + (0xFF#8).toNat + [0xAA#8].length ≤ 32768 ∧ 2 ≤ State.reset.params.threshold := by decide

theorem witness_WriteStores :
    0 < (writeData [0x7F#8, 0xFF#8, 0xAA#8]).length ∧ State.reset.sim.mem.wf
    ∧ writeAddress [0x7F#8, 0xFF#8, 0xAA#8] + (writeData [0x7F#8, 0xFF#8, 0xAA#8]).length ≤ Config.capacity
    ∧ ¬ (writeAddress [0x7F#8, 0xFF#8, 0xAA#8] ≤ 32766)
    ∧ Config.capacity < writeAddress [0x7F#8, 0xFF#8, 0xAA#8, 0xAA#8] + (writeData [0x7F#8, 0xFF#8, 0xAA#8, 0xAA#8]).length := by
  decide

theorem witness_ReadBounds :
    State.reset.sim.ptr.toNat + (255#8).toNat ≤ 32768 ∧ 32768 < (0x8000#16).toNat + (1#8).toNat
    ∧ (0x7F#8).toNat * 256 + (0xFF#8).toNat + (1#8).toNat ≤ 32768
    ∧ 32768 < (0x7F#8).toNat * 256 + (0xFF#8).toNat + (2#8).toNat := by decide

theorem witness_WriteReadPhases :
    (nextOf (exec (.busWrite 0x50#7 0#8 [0#8, 0#8]) State.reset)).map (fun t => t.env.busOut.map BusResponse.status)
      = some (some .ok)
    ∧ (nextOf (exec (.busWrite 0x50#7 0#8 [0#8, 0#8]) (busySim 50 0#16))).map (fun t => t.env.busOut.map BusResponse.status)
      = some (some .notAcknowledged) := by decide

theorem witness_RealAnswer :
    (realDevice [⟨.ok, [1#8, 2#8]⟩]).params.device = .real ∧ (realDevice [⟨.ok, [1#8, 2#8]⟩]).env.oracle = ⟨.ok, [1#8, 2#8]⟩ :: []
    ∧ [1#8, 2#8].length = (2#8).toNat := by decide

theorem witness_Peek : (32767#16).toNat < 32768 ∧ 32768 ≤ (32768#16).toNat := by decide

theorem witness_Parameters : ∃ t, step (pending [.packet (.s 1#32)]) = .next t := ⟨_, rfl⟩

theorem witness_Admitted :
    admitted (.packet (.b 0x00FF0140#32 (List.replicate 255 0#8))) ∧ admitted (.packet (.b 0x00000143#32 [1#8]))
    ∧ admitted (.hostWrite 4 0x1C 0#32) ∧ admitted (.hostRead 4 0) :=
  ⟨.inr (by decide +kernel), .inl (by decide), ⟨rfl, by decide, by decide⟩, ⟨rfl, by decide, by decide⟩⟩

/-- A state at a step label, with RESULT 1. -/
def withSeq (l : Seq) : State :=
  { State.reset with host := { HostRegs.cleared with result := 1#32 }, seqr := { Sequencer.cleared with seq := l } }

theorem witness_ResultChanges :
    ∃ t, step (pending [.packet (.h 0x41B40000#32 1#32)]) = .next t ∧ t.host.result ≠ 0#32 := ⟨_, rfl, by decide⟩

theorem witness_ResultChanges_sequencer :
    (withSeq .illegal).env.inputs = [] ∧ (withSeq .illegal).seqr.seq ≠ .idle
    ∧ ∃ t, step (withSeq .illegal) = .next t ∧ t.host.result ≠ (withSeq .illegal).host.result := ⟨rfl, by decide, _, rfl, by decide⟩

theorem witness_ResultChanges_reset :
    ∃ t, step { pending [.blockReset] with host := { HostRegs.cleared with result := 1#32 } } = .next t ∧ t.host.result ≠ 1#32 :=
  ⟨_, rfl, by decide⟩

end Sys2Proof.Tests
end

namespace Sys2Proof

/-! Format H from its 64-bit number (R91, R95): the fields of the low word `CMD`, and the decoder's case table. -/

/-- A 64-bit row is one format H word `W = {CMD_ARG, CMD}`. -/
theorem decodeTableWord_64 (w : Nat) :
    decodeTableWord 64 w = (decodeH (BitVec.ofNat 32 (w / 2 ^ 32)) (BitVec.ofNat 32 w)).toOption := by
  rw [← Nat.shiftRight_eq_div_pow]; rfl

theorem rsvField_ofNat_eq_zero_iff (w : Nat) : rsvField (BitVec.ofNat 32 w) = 0#12 ↔ w / 16 % 4096 = 0 := by
  rw [rsvField_eq_zero_iff, BitVec.toNat_ofNat]; omega

theorem opField_ofNat_eq_iff (w k : Nat) (hk : k < 16) :
    opField (BitVec.ofNat 32 w) = BitVec.ofNat 4 k ↔ w % 16 = k := by
  rw [opField_eq_iff _ k hk, BitVec.toNat_ofNat]; omega

theorem addrField_ofNat (w : Nat) : addrField (BitVec.ofNat 32 w) = BitVec.ofNat 16 (w / 65536) := by
  rw [addrField_eq, BitVec.toNat_ofNat]
  apply BitVec.eq_of_toNat_eq
  rw [BitVec.toNat_ofNat, BitVec.toNat_ofNat]; omega

theorem decodeH_of_rsvField_ne {cmd : Word} (arg : Word) (h : rsvField cmd ≠ 0#12) :
    decodeH arg cmd = .error .reservedBits := if_pos h

/-- With RSV 0 the answer is the row that OP names (R92), and `none` for a reserved OP (R94). -/
theorem decodeH_toOption_of_rsvField_eq {cmd : Word} (arg : Word) (h : rsvField cmd = 0#12) :
    (decodeH arg cmd).toOption =
      if opField cmd = 1#4 then some (.encodeTemp (addrField cmd) arg)
      else if opField cmd = 2#4 then some (.decodeCode (addrField cmd) arg)
      else if opField cmd = 3#4 then some (.logData (addrField cmd) arg)
      else if opField cmd = 4#4 then some (.readData (addrField cmd) arg)
      else if opField cmd = 5#4 then some (.waitComplete (addrField cmd) arg)
      else none := by
  simp only [decodeH, h, ne_eq, not_true_eq_false, if_false, apply_ite Except.toOption]
  rfl

/-- Settles O4: RSV decides first; with RSV 0 the two case tables agree row by row, since each field of `CMD` is the same
number read from the whole word. -/
theorem commandWordReadsItsFields : Obligations.CommandWordReadsItsFields := by
  intro w _
  rw [decodeTableWord_64]
  by_cases hrsv : w / 16 % 4096 = 0
  · have hop := opField_ofNat_eq_iff w
    rw [decodeH_toOption_of_rsvField_eq _ ((rsvField_ofNat_eq_zero_iff w).mpr hrsv), addrField_ofNat,
      if_neg (not_not_intro hrsv)]
    simp only [hop 1 (by decide), hop 2 (by decide), hop 3 (by decide), hop 4 (by decide), hop 5 (by decide)]
  · rw [decodeH_of_rsvField_ne _ (mt (rsvField_ofNat_eq_zero_iff w).mp hrsv), if_pos hrsv]
    rfl

end Sys2Proof

namespace Sys2Proof.Machine

/-! Rounding towards zero (R16). -/

theorem trunc_of_nonneg {q : ℚ} (h : 0 ≤ q) : trunc q = ⌊q⌋ := if_pos h

theorem trunc_intCast (k : ℤ) : trunc (k : ℚ) = k := by simp [trunc]

theorem trunc_neg (q : ℚ) : trunc (-q) = -trunc q := by
  rcases lt_trichotomy q 0 with h | rfl | h
  · rw [trunc, trunc, if_pos (by linarith), if_neg (by linarith), Int.floor_neg]
  · rfl
  · rw [trunc, trunc, if_neg (by linarith), if_pos h.le, Int.ceil_neg]

theorem trunc_of_nonpos {q : ℚ} (h : q ≤ 0) : trunc q = -⌊-q⌋ := by
  rw [← trunc_of_nonneg (neg_nonneg.mpr h), trunc_neg, neg_neg]

theorem abs_trunc (q : ℚ) : |trunc q| = ⌊|q|⌋ := by
  rcases le_total 0 q with h | h
  · rw [trunc_of_nonneg h, abs_of_nonneg h, abs_of_nonneg (Int.floor_nonneg.mpr h)]
  · rw [trunc_of_nonpos h, abs_of_nonpos h, abs_neg, abs_of_nonneg (Int.floor_nonneg.mpr (neg_nonneg.mpr h))]

theorem abs_trunc_le (q : ℚ) : |(trunc q : ℚ)| ≤ |q| := by
  rw [← Int.cast_abs, abs_trunc]; exact Int.floor_le _

theorem abs_sub_abs_trunc_lt_one (q : ℚ) : |q| - |(trunc q : ℚ)| < 1 := by
  rw [← Int.cast_abs, abs_trunc, sub_lt_iff_lt_add']; exact Int.lt_floor_add_one _

theorem trunc_mul_self_nonneg (q : ℚ) : 0 ≤ (trunc q : ℚ) * q := by
  rcases le_total 0 q with h | h
  · rw [trunc_of_nonneg h]
    exact mul_nonneg (Int.cast_nonneg (Int.floor_nonneg.mpr h)) h
  · rw [trunc_of_nonpos h, Int.cast_neg, neg_mul_comm]
    exact mul_nonneg (Int.cast_nonneg (Int.floor_nonneg.mpr (neg_nonneg.mpr h))) (neg_nonneg.mpr h)

/-- What `trunc` leaves of a number is 0 or has the number's sign. -/
theorem trunc_eq_zero_or_mul_self_pos (q : ℚ) : trunc q = 0 ∨ 0 < (trunc q : ℚ) * q := by
  refine or_iff_not_imp_left.mpr fun htrunc => (trunc_mul_self_nonneg q).lt_of_ne' (mul_ne_zero ?_ ?_)
  · exact_mod_cast htrunc
  · rintro rfl
    exact htrunc rfl

/-! The value of a pattern (R105): its sign, and its magnitude in sixteenths. -/

theorem abs_real (f : Word) : |real f| = significand f * (2 : ℚ) ^ ((scaleExp f : ℤ) - 150) := by
  have h : (0 : ℚ) ≤ significand f * (2 : ℚ) ^ ((scaleExp f : ℤ) - 150) := by positivity
  rw [real, mul_assoc, abs_mul, abs_of_nonneg h]
  split <;> simp

theorem real_eq_ite_abs (f : Word) : real f = if signOf f then -|real f| else |real f| := by
  rw [abs_real, real]
  split <;> ring

theorem sixteen_mul_abs_real (f : Word) :
    16 * |real f| = significand f * (2 : ℚ) ^ ((scaleExp f : ℤ) - 146) := by
  rw [abs_real, show (scaleExp f : ℤ) - 146 = 4 + ((scaleExp f : ℤ) - 150) by ring,
    zpow_add₀ (by norm_num)]
  ring

theorem floor_sixteen_mul_abs_real (f : Word) : ⌊16 * |real f|⌋ = (magnitude16 f : ℤ) := by
  rw [sixteen_mul_abs_real, magnitude16]
  split
  next h =>
    have hz : (scaleExp f : ℤ) - 146 = ((scaleExp f - 146 : ℕ) : ℤ) := by omega
    rw [hz, zpow_natCast]
    exact_mod_cast Int.floor_natCast (R := ℚ) (significand f * 2 ^ (scaleExp f - 146))
  next h =>
    have hz : (scaleExp f : ℤ) - 146 = -((146 - scaleExp f : ℕ) : ℤ) := by omega
    rw [hz, zpow_neg, zpow_natCast, ← div_eq_mul_inv]
    exact_mod_cast Rat.floor_natCast_div_natCast (significand f) (2 ^ (146 - scaleExp f))

/-- The model's integer arithmetic computes R120's product, exactly. -/
theorem scaledTrunc_eq_trunc (f : Word) : scaledTrunc f = trunc (16 * real f) := by
  have habs : trunc (16 * |real f|) = magnitude16 f := by
    rw [trunc_of_nonneg (by positivity), floor_sixteen_mul_abs_real]
  rw [scaledTrunc, real_eq_ite_abs]
  split
  · rw [mul_neg, trunc_neg, habs]
  · rw [habs]

theorem enc_of_finite {f : Word} (hf : expOf f ≠ 255) : enc f = BitVec.ofInt 16 (trunc (16 * real f)) := by
  rw [enc, nonfinite, decide_eq_false hf, if_neg Bool.false_ne_true, scaledTrunc_eq_trunc]

/-- Settles O20: the integer product the model takes is the rational one. -/
theorem encIsTheTruncatedProduct : Obligations.EncIsTheTruncatedProduct := fun _ => enc_of_finite

/-! The fields of a pattern built from a sign, an exponent and a fraction (R105). -/

theorem signOf_eq (f : Word) : signOf f = decide (2 ^ 31 ≤ f.toNat) := BitVec.msb_eq_decide f

theorem expOf_eq (f : Word) : expOf f = f.toNat / 2 ^ 23 % 256 := by
  simp [expOf, BitVec.extractLsb'_toNat, Nat.shiftRight_eq_div_pow]

theorem fracOf_eq (f : Word) : fracOf f = f.toNat % 2 ^ 23 := by
  simp [fracOf, BitVec.extractLsb'_toNat]

/-! `dec` (R121): the pattern it builds, its fields and its value. -/

/-- `sixteenths` puts `m`, moved up so that its leading one is at bit 23, into the significand: a normal number of exponent
`log2 m + 123`. -/
theorem sixteenths_eq {m : Nat} (hm : m ≠ 0) (hlog : m.log2 ≤ 23) :
    ∃ x < 2 ^ 23, sixteenths m = (m.log2 + 123) * 2 ^ 23 + x ∧ 2 ^ 23 + x = m * 2 ^ (23 - m.log2) := by
  have hunit : 2 ^ m.log2 * 2 ^ (23 - m.log2) = 2 ^ 23 := by rw [← pow_add, Nat.add_sub_cancel' hlog]
  have hle : 2 ^ m.log2 ≤ m := Nat.log2_self_le hm
  have hlt : m < 2 * 2 ^ m.log2 := by rw [← pow_succ']; exact Nat.lt_log2_self
  have hsum : 2 ^ 23 + (m - 2 ^ m.log2) * 2 ^ (23 - m.log2) = m * 2 ^ (23 - m.log2) := by
    rw [← hunit, ← Nat.add_mul, Nat.add_sub_cancel' hle]
  refine ⟨_, ?_, rfl, hsum⟩
  calc (m - 2 ^ m.log2) * 2 ^ (23 - m.log2)
      < 2 ^ m.log2 * 2 ^ (23 - m.log2) := Nat.mul_lt_mul_of_pos_right (by omega) (by positivity)
    _ = 2 ^ 23 := hunit

theorem codeMagnitude_le (c : Half) : codeMagnitude c ≤ 2 ^ 15 := by
  have hlo := BitVec.le_toInt c
  have hhi := BitVec.toInt_lt (x := c)
  unfold codeMagnitude; omega

theorem toInt_eq_ite_codeMagnitude (c : Half) :
    c.toInt = if c.msb then -(codeMagnitude c : ℤ) else codeMagnitude c := by
  simp only [BitVec.msb_eq_toInt, decide_eq_true_eq, codeMagnitude]
  split <;> omega

theorem codeMagnitude_eq_zero_iff (c : Half) : codeMagnitude c = 0 ↔ c = 0#16 := by
  rw [codeMagnitude, Int.natAbs_eq_zero, ← BitVec.toInt_inj, BitVec.toInt_zero]

theorem log2_codeMagnitude_le (c : Half) : (codeMagnitude c).log2 ≤ 15 := by
  calc (codeMagnitude c).log2 ≤ (2 ^ 15).log2 := by
        simpa only [Nat.log2_eq_log_two] using Nat.log_mono_right (codeMagnitude_le c)
    _ = 15 := by decide

theorem dec_zero : dec 0#16 = 0#32 := by decide

/-- The pattern of a nonzero code as a number: sign, exponent and fraction at their places, and the significand. -/
theorem dec_toNat {c : Half} (hc : c ≠ 0#16) :
    ∃ x < 2 ^ 23, (dec c).toNat = c.msb.toNat * 2 ^ 31 + ((codeMagnitude c).log2 + 123) * 2 ^ 23 + x
      ∧ 2 ^ 23 + x = codeMagnitude c * 2 ^ (23 - (codeMagnitude c).log2) := by
  have hm := mt (codeMagnitude_eq_zero_iff c).mp hc
  have hlog := log2_codeMagnitude_le c
  obtain ⟨x, hx, hsix, hsig⟩ := sixteenths_eq hm (by omega)
  refine ⟨x, hx, ?_, hsig⟩
  rw [dec, if_neg hm, BitVec.toNat_ofNat, hsix]
  cases c.msb <;> simp <;> omega

theorem signOf_dec {c : Half} (hc : c ≠ 0#16) : signOf (dec c) = c.msb := by
  obtain ⟨x, hx, hnat, -⟩ := dec_toNat hc
  have hlog := log2_codeMagnitude_le c
  rw [signOf_eq, hnat]
  cases c.msb <;> simp <;> omega

theorem expOf_dec {c : Half} (hc : c ≠ 0#16) : expOf (dec c) = (codeMagnitude c).log2 + 123 := by
  obtain ⟨x, hx, hnat, -⟩ := dec_toNat hc
  have hlog := log2_codeMagnitude_le c
  rw [expOf_eq, hnat]
  omega

theorem significand_dec {c : Half} (hc : c ≠ 0#16) :
    significand (dec c) = codeMagnitude c * 2 ^ (23 - (codeMagnitude c).log2) := by
  obtain ⟨x, hx, hnat, hsig⟩ := dec_toNat hc
  rw [significand, if_neg (by rw [expOf_dec hc]; omega), fracOf_eq, hnat, ← hsig]
  omega

theorem scaleExp_dec {c : Half} (hc : c ≠ 0#16) : scaleExp (dec c) = (codeMagnitude c).log2 + 123 := by
  rw [scaleExp, expOf_dec hc, if_neg (by omega)]

theorem abs_real_dec {c : Half} (hc : c ≠ 0#16) : |real (dec c)| = (codeMagnitude c : ℚ) / 16 := by
  have hlog := log2_codeMagnitude_le c
  have hexp : ((23 - (codeMagnitude c).log2 : ℕ) : ℤ) + (((codeMagnitude c).log2 + 123 : ℕ) - 150) = -4 := by omega
  rw [abs_real, significand_dec hc, scaleExp_dec hc, Nat.cast_mul, mul_assoc, Nat.cast_pow, Nat.cast_ofNat,
    ← zpow_natCast, ← zpow_add₀ (by norm_num), hexp]
  norm_num [div_eq_mul_inv]

theorem real_zero : real 0#32 = 0 := by
  have hsig : significand 0#32 = 0 := by decide
  rw [real, hsig]; simp

theorem real_dec (c : Half) : real (dec c) = (c.toInt : ℚ) / 16 := by
  by_cases hc : c = 0#16
  · rw [hc, dec_zero, real_zero]; simp
  · rw [real_eq_ite_abs, signOf_dec hc, abs_real_dec hc, toInt_eq_ite_codeMagnitude]
    split
    · rw [Int.cast_neg, Int.cast_natCast, neg_div]
    · rw [Int.cast_natCast]

theorem expOf_dec_ne_255 (c : Half) : expOf (dec c) ≠ 255 := by
  by_cases hc : c = 0#16
  · rw [hc]; decide
  · have hlog := log2_codeMagnitude_le c
    rw [expOf_dec hc]; omega

theorem dec_eq_zero_of_expOf_eq_zero {c : Half} (h : expOf (dec c) = 0) : dec c = 0#32 := by
  by_cases hc : c = 0#16
  · rw [hc, dec_zero]
  · rw [expOf_dec hc] at h; omega

/-- Settles O21: a nonzero code decodes to a normal number of exponent 123 to 138, whose significand is the code's magnitude
moved up; the bounds are those of a signed 16-bit number. -/
theorem decIsExact : Obligations.DecIsExact := by
  intro c
  have hlo : (-32768 : ℚ) ≤ c.toInt := by exact_mod_cast BitVec.le_toInt c
  have hhi : (c.toInt : ℚ) ≤ 32767 := by exact_mod_cast Int.le_of_lt_add_one (BitVec.toInt_lt (x := c))
  refine ⟨real_dec c, (codeMagnitude_le c).trans_lt (by norm_num), ?_, ?_, expOf_dec_ne_255 c, dec_eq_zero_of_expOf_eq_zero⟩
  · rw [real_dec]; linarith
  · rw [real_dec]; linarith

/-! Encoding and decoding, one after the other (R123, R124, R126). -/

/-- A finite pattern whose value is `k / 16` encodes to `k` modulo 65536. -/
theorem enc_of_real_eq {f : Word} {k : ℤ} (hf : expOf f ≠ 255) (hk : real f = (k : ℚ) / 16) :
    enc f = BitVec.ofInt 16 k := by
  rw [enc_of_finite hf, hk, mul_div_cancel₀ _ (by norm_num), trunc_intCast]

theorem real_dec_ofInt {k : ℤ} (hlo : -32768 ≤ k) (hhi : k < 32768) :
    real (dec (BitVec.ofInt 16 k)) = (k : ℚ) / 16 := by
  rw [real_dec, BitVec.toInt_ofInt_eq_self (by decide) hlo hhi]

/-- Settles O22: the value of `dec c` is `s16(c) / 16`, which `enc` takes back to `c`. -/
theorem encOfDecIsTheCode : Obligations.EncOfDecIsTheCode := by
  intro c
  refine ⟨?_, ?_⟩
  · rw [real_dec, div_mul_cancel₀ _ (by norm_num)]
  · rw [enc_of_real_eq (expOf_dec_ne_255 c) (real_dec c), BitVec.ofInt_toInt]

/-- Settles O23: `dec` of the code of `k` is a pattern of value `k / 16`, and a pattern of that value encodes to that code. -/
theorem roundTripOnTheDomain : Obligations.RoundTripOnTheDomain := by
  intro k hlo hhi
  refine ⟨⟨dec (BitVec.ofInt 16 k), expOf_dec_ne_255 _, real_dec_ofInt hlo hhi⟩, fun f hf hk => ?_⟩
  rw [enc_of_real_eq hf hk, real_dec_ofInt hlo hhi]

/-- On the domain the code does not wrap (R124). -/
theorem real_dec_enc {f : Word} (hf : expOf f ≠ 255) (hdom : |real f| < 2048) :
    real (dec (enc f)) = (trunc (16 * real f) : ℚ) / 16 := by
  have habs : |(trunc (16 * real f) : ℚ)| < 32768 := by
    calc |(trunc (16 * real f) : ℚ)| ≤ |16 * real f| := abs_trunc_le _
      _ = 16 * |real f| := by rw [abs_mul]; norm_num
      _ < 32768 := by linarith
  obtain ⟨hlo, hhi⟩ := abs_lt.mp (show |trunc (16 * real f)| < 32768 by exact_mod_cast habs)
  rw [enc_of_finite hf, real_dec_ofInt hlo.le hhi]

/-- Settles O24: with no wrap the result is the truncated product over 16, so the bounds are those of `trunc`. -/
theorem errorBoundOnTheDomain : Obligations.ErrorBoundOnTheDomain := by
  intro f hf hlo hhi
  have hy := real_dec_enc hf (abs_lt.mpr ⟨hlo, hhi⟩)
  have habs16 : |16 * real f| = 16 * |real f| := by rw [abs_mul]; norm_num
  have habsy : |real (dec (enc f))| = |(trunc (16 * real f) : ℚ)| / 16 := by rw [hy, abs_div]; norm_num
  have hle := abs_trunc_le (16 * real f)
  have hlt := abs_sub_abs_trunc_lt_one (16 * real f)
  refine ⟨hy, ?_, by linarith, by linarith⟩
  rcases trunc_eq_zero_or_mul_self_pos (16 * real f) with h | h
  · left; rw [hy, h]; simp
  · right; rw [hy]; linarith

end Sys2Proof.Machine

namespace Sys2Proof.Machine

/-! The address checks (R142, R143, R146), as bounds on a 16-bit address. -/

theorem capOk_iff (a : Half) : capOk a = true ↔ a.toNat ≤ 32766 := by
  rw [capOk, decide_eq_true_iff, capacity_eq, sampleBytes_eq]; omega

/-- The byte after the slot is in the same page for the first 62 of its 64 places; the last slot of the device is exempt. -/
theorem pageOk_iff (a : Half) : pageOk a = true ↔ a.toNat % 64 ≤ 61 ∨ 32766 ≤ a.toNat := by
  have hpage : a.toNat / 64 = (a.toNat + 2) / 64 ↔ a.toNat % 64 ≤ 61 := by omega
  have hend : 32768 ≤ a.toNat + 2 ↔ 32766 ≤ a.toNat := by omega
  rw [pageOk, Bool.or_eq_true, decide_eq_true_iff, decide_eq_true_iff, pageOf, pageOf, pageSize_eq, capacity_eq,
    sampleBytes_eq, hpage, hend]

theorem readOk_iff (a : Half) : readOk a = true ↔ a.toNat ≤ 32766 := by
  rw [readOk, decide_eq_true_iff, capacity_eq]; omega

/-- The address 32766 is accepted by the exemption of R143 alone: it is place 62 of its page. -/
theorem capOk_and_pageOk_iff (a : Half) : (capOk a = true ∧ pageOk a = true) ↔ acceptedAddress a := by
  rw [capOk_iff, pageOk_iff, acceptedAddress]; omega

/-- Settles O27: each check is a comparison of unbounded numbers, so `a + 2` never wraps. -/
theorem addressesTheChecksAccept : Obligations.AddressesTheChecksAccept :=
  fun a => ⟨capOk_iff a, pageOk_iff a, readOk_iff a, capOk_and_pageOk_iff a⟩

/-! A host write of a register (R82, R140). -/

/-- An aligned word write inside the window reaches the register at its offset. -/
theorem step_of_aligned_hostWrite {s : State} {offset : Nat} {v : Word} {rest : List Input}
    (hin : s.env.inputs = .hostWrite 4 offset v :: rest) (hlt : offset < 32) (halign : offset % 4 = 0) :
    step s = .next (writeRegister offset v (withInputs rest s)) := by
  have hwindow : ¬ windowBytes ≤ offset := by rw [windowBytes_eq]; omega
  have hword : alignedWord 4 offset = true := by rw [alignedWord, decide_eq_true halign]; rfl
  simp only [step, hin, runInput, hostWrite, hostAccess, if_neg hwindow, if_pos hword]

/-- The label a command word starts at (R92, R140), with the fields of `CMD` as numbers. -/
theorem startOf_decodeH (arg cmd : Word) :
    startOf (decodeH arg cmd) =
      if cmd.toNat / 16 % 4096 ≠ 0 then .illegal
      else if cmd.toNat % 16 = 1 then .encodeTemp
      else if cmd.toNat % 16 = 2 then .decodeCode
      else if cmd.toNat % 16 = 3 then .logData
      else if cmd.toNat % 16 = 4 then .readData
      else if cmd.toNat % 16 = 5 then .waitPoll .first
      else .illegal := by
  have hop := opField_eq_iff cmd
  simp only [decodeH, apply_ite startOf, ne_eq, rsvField_eq_zero_iff, hop 1 (by decide), hop 2 (by decide),
    hop 3 (by decide), hop 4 (by decide), hop 5 (by decide)]
  rfl

theorem writeCmd_busy {s : State} (v : Word) (h : s.host.status.busy = true) : writeCmd v s = dropCommand s := if_pos h

theorem writeCmd_idle {s : State} (v : Word) (h : s.host.status.busy = false) : writeCmd v s = accept v s :=
  if_neg (by rw [h]; decide)

/-- What acceptance writes into the sequencer, with the fields of `CMD` as numbers. -/
theorem accept_seqr (v : Word) (s : State) :
    (accept v s).seqr = { s.seqr with
      seq := startOf (decodeH s.host.cmdArg v), lOp := BitVec.ofNat 4 v.toNat, lAddr := BitVec.ofNat 16 (v.toNat / 65536),
      lArg := s.host.cmdArg } := by
  rw [← opField_eq, ← addrField_eq]; rfl

/-- Settles O14: the write reaches `CMD`, and `BUSY` decides between the drop and the acceptance. -/
theorem hostWriteOfCmd : Obligations.HostWriteOfCmd := by
  intro s v rest hin
  have hstep : step s = .next (writeCmd v (withInputs rest s)) :=
    step_of_aligned_hostWrite hin (by decide) (by decide)
  refine ⟨fun hbusy => ?_, fun hidle => ⟨accept v (withInputs rest s), ?_, rfl, ?_, rfl, rfl, rfl⟩⟩
  · rw [hstep, writeCmd_busy (s := withInputs rest s) v hbusy]; rfl
  · rw [hstep, writeCmd_idle (s := withInputs rest s) v hidle]
  · rw [accept_seqr, startOf_decodeH]; rfl

end Sys2Proof.Machine

namespace Sys2Proof.Machine

/-! A testbench's bus request with the simulator on the bus (R180): what is latched, and the simulator that remains. -/

/-- The state after the simulator's response and next state `a`: the response latched, nothing else touched. -/
def simAnswered (a : BusResponse × Simulator) (s : State) : State := answerBus (some a.1) (withSim a.2 s)

/-- A second answer replaces the first one. -/
@[simp] theorem simAnswered_simAnswered (a b : BusResponse × Simulator) (s : State) :
    simAnswered a (simAnswered b s) = simAnswered a s := rfl

theorem busRequest_simulator {s : State} (q : BusRequest) (h : s.params.device = .simulator) :
    busRequest q s = simAnswered (onBus s.params.threshold q s.sim) s := by
  simp only [busRequest, deviceAnswer, h, simAnswered]

theorem exec_busWrite_simulator {s : State} (dev : BitVec 7) (rx : Byte) (tx : List Byte)
    (h : s.params.device = .simulator) :
    exec (.busWrite dev rx tx) s = .next (simAnswered (handleWrite s.params.threshold tx s.sim) s) :=
  congrArg Host.Outcome.next (busRequest_simulator ⟨.write, dev, tx, 0⟩ h)

theorem exec_busRead_simulator {s : State} (dev : BitVec 7) (x n : Byte) (h : s.params.device = .simulator) :
    exec (.busRead dev x n) s = .next (simAnswered (handleRead s.params.threshold n.toNat s.sim) s) :=
  congrArg Host.Outcome.next (busRequest_simulator ⟨.read, dev, [], n.toNat⟩ h)

theorem exec_busWriteRead_simulator {s : State} (dev : BitVec 7) (tx : List Byte) (n : Byte)
    (h : s.params.device = .simulator) :
    exec (.busWriteRead dev tx n) s = .next (simAnswered (handleWriteRead s.params.threshold tx n.toNat s.sim) s) :=
  congrArg Host.Outcome.next (busRequest_simulator ⟨.writeRead, dev, tx, n.toNat⟩ h)

/-! The write phase on an idle simulator, by its length (R183 to R186). -/

/-- R181, with the two address bytes as numbers. -/
@[simp] theorem writeAddress_cons_cons (x y : Byte) (data : List Byte) :
    writeAddress (x :: y :: data) = x.toNat * 256 + y.toNat := joinBytes_toNat x y

@[simp] theorem writeData_cons_cons (x y : Byte) (data : List Byte) : writeData (x :: y :: data) = data := rfl

/-- A 16-bit address is the two bytes it was sent as. -/
theorem ofNat_writeAddress (x y : Byte) (data : List Byte) :
    BitVec.ofNat 16 (writeAddress (x :: y :: data)) = x ++ y :=
  (BitVec.ofNat_toNat 16 (joinBytes x y)).trans (BitVec.setWidth_eq _)

theorem three_le_length_cons_cons {x y : Byte} {data : List Byte} (h : data ≠ []) : 3 ≤ (x :: y :: data).length := by
  have := List.length_pos_iff.mpr h
  simp only [List.length_cons]; omega

section
variable {T : Nat} {m : Simulator} (hidle : m.busyf = false)
include hidle

theorem handleWrite_idle_short {tx : List Byte} (h : tx.length < 2) : handleWrite T tx m = (plainAnswer .ok, m) := by
  rw [handleWrite, if_neg (by simp [hidle])]
  rcases (by omega : tx.length = 0 ∨ tx.length = 1) with h0 | h1
  · rw [if_pos h0]; rfl
  · rw [if_neg (by omega), if_pos h1]; rfl

theorem handleWrite_idle_address {tx : List Byte} (h : tx.length = 2) :
    handleWrite T tx m = (plainAnswer .ok, { m with ptr := BitVec.ofNat 16 (writeAddress tx) }) := by
  rw [handleWrite, if_neg (by simp [hidle]), if_neg (by omega), if_neg (by omega), if_pos h]
  rfl

theorem handleWrite_idle_data {tx : List Byte} (h : 3 ≤ tx.length) : handleWrite T tx m = dataWrite tx m := by
  rw [handleWrite, if_neg (by simp [hidle]), if_neg (by omega), if_neg (by omega), if_neg (by omega)]

theorem handleWrite_idle_beyond {tx : List Byte} (hlen : 3 ≤ tx.length)
    (h : Config.capacity < writeAddress tx + (writeData tx).length) :
    handleWrite T tx m = (plainAnswer .generalError, m) :=
  (handleWrite_idle_data hidle hlen).trans (if_pos h)

theorem handleWrite_idle_stored {tx : List Byte} (hlen : 3 ≤ tx.length)
    (h : writeAddress tx + (writeData tx).length ≤ Config.capacity) :
    handleWrite T tx m = (plainAnswer .ok,
      { m with mem := m.mem.writeBytes (writeAddress tx) (writeData tx), busyf := true, bcnt := 0#16 }) :=
  (handleWrite_idle_data hidle hlen).trans (if_neg (by omega))

end

/-! The read phase on an idle simulator (R187). -/

theorem idleRead_inside {n : Nat} {m : Simulator} (h : m.ptr.toNat + n ≤ Config.capacity) :
    idleRead n m = (⟨.ok, m.mem.readBytes m.ptr.toNat n⟩, m) := if_neg (by omega)

theorem idleRead_beyond {n : Nat} {m : Simulator} (h : Config.capacity < m.ptr.toNat + n) :
    idleRead n m = (plainAnswer .generalError, m) := if_pos h

/-! The two phases of a WRITEREAD (R189). -/

theorem handleWriteRead_of_ok {T n : Nat} {tx : List Byte} {m : Simulator} (h : (handleWrite T tx m).1.status = .ok) :
    handleWriteRead T tx n m = handleRead T n (handleWrite T tx m).2 := if_pos h

theorem handleWriteRead_of_not_ok {T n : Nat} {tx : List Byte} {m : Simulator}
    (h : (handleWrite T tx m).1.status ≠ .ok) : handleWriteRead T tx n m = handleWrite T tx m := if_neg h

theorem handleWriteRead_idle_short {T n : Nat} {tx : List Byte} {m : Simulator} (hidle : m.busyf = false)
    (h : tx.length < 2) : handleWriteRead T tx n m = idleRead n m := by
  have e := handleWrite_idle_short (T := T) hidle h
  rw [handleWriteRead_of_ok (by rw [e]; rfl), e, handleRead_idle hidle]

theorem handleWriteRead_idle_address {T n : Nat} {tx : List Byte} {m : Simulator} (hidle : m.busyf = false)
    (h : tx.length = 2) :
    handleWriteRead T tx n m = idleRead n { m with ptr := BitVec.ofNat 16 (writeAddress tx) } := by
  have e := handleWrite_idle_address (T := T) hidle h
  rw [handleWriteRead_of_ok (by rw [e]; rfl), e]
  exact handleRead_idle hidle

theorem handleWriteRead_idle_beyond {T n : Nat} {tx : List Byte} {m : Simulator} (hidle : m.busyf = false)
    (hlen : 3 ≤ tx.length) (h : Config.capacity < writeAddress tx + (writeData tx).length) :
    handleWriteRead T tx n m = (plainAnswer .generalError, m) := by
  have e := handleWrite_idle_beyond (T := T) hidle hlen h
  rw [handleWriteRead_of_not_ok (by rw [e]; exact BusStatus.noConfusion), e]

/-- The read phase is the first request of the busy period that the write phase started. -/
theorem handleWriteRead_idle_stored {T n : Nat} {tx : List Byte} {m : Simulator} (hidle : m.busyf = false)
    (hlen : 3 ≤ tx.length) (h : writeAddress tx + (writeData tx).length ≤ Config.capacity) :
    handleWriteRead T tx n m = busyStep T
      { m with mem := m.mem.writeBytes (writeAddress tx) (writeData tx), busyf := true, bcnt := 0#16 } := by
  have e := handleWrite_idle_stored (T := T) hidle hlen h
  rw [handleWriteRead_of_ok (by rw [e]; rfl), e]
  exact handleRead_busy rfl

/-- A busy step that does not reach `T` (R182). -/
theorem busyStep_below {T : Nat} {m : Simulator} (h : m.bcnt.toNat + 1 < T) :
    busyStep T m = (plainAnswer .notAcknowledged, { m with bcnt := m.bcnt + 1#16 }) := by
  rw [busyStep, if_neg (by omega)]

/-- Settles O48: a WRITEREAD shares its two phases with the single requests, and the second answer replaces the
first; the three idle cases follow from what each write phase leaves for the read phase. -/
theorem writeReadIsAWriteThenARead : Obligations.WriteReadIsAWriteThenARead := by
  intro s dev n hdev
  have hptr (x y : Byte) : (x ++ y).toNat = x.toNat * 256 + y.toNat := joinBytes_toNat x y
  have haddress (x y : Byte) (hidle : s.sim.busyf = false) : exec (.busWriteRead dev [x, y] n) s
      = .next (simAnswered (idleRead n.toNat { s.sim with ptr := x ++ y }) s) := by
    rw [exec_busWriteRead_simulator dev _ n hdev, handleWriteRead_idle_address hidle rfl, ofNat_writeAddress]
  refine ⟨fun tx => ?_, fun x y hidle => ⟨fun hin => ?_, fun hout => ?_, fun data hdata hfit hT => ?_⟩⟩
  · refine ⟨_, _, exec_busWrite_simulator dev 0#8 tx hdev, rfl, fun hfail => ?_,
      fun hok => ⟨_, exec_busRead_simulator dev 0#8 n hdev, ?_⟩⟩
    · rw [exec_busWriteRead_simulator dev tx n hdev, handleWriteRead_of_not_ok hfail]
    · rw [exec_busWriteRead_simulator dev tx n hdev, handleWriteRead_of_ok hok, simAnswered_simAnswered]
      rfl
  · rw [haddress x y hidle, idleRead_inside (by rw [hptr]; exact hin)]
    simp only [hptr]
    rfl
  · rw [haddress x y hidle, idleRead_beyond (by rw [hptr]; exact hout)]
    rfl
  · rw [exec_busWriteRead_simulator dev _ n hdev,
      handleWriteRead_idle_stored hidle (three_le_length_cons_cons hdata) (by simpa using hfit),
      busyStep_below (m := { s.sim with mem := _, busyf := true, bcnt := 0#16 }) hT, writeAddress_cons_cons,
      writeData_cons_cons]
    rfl

/-- Settles O44: whatever its kind, a request that meets a busy simulator is one busy step. -/
theorem busySimulatorDoesNotAcknowledge : Obligations.BusySimulatorDoesNotAcknowledge := by
  intro s dev x n tx i hi hdev hbusy
  obtain ⟨q, hq⟩ : ∃ q, exec i s = .next (busRequest q s) := by
    rcases hi with rfl | rfl | rfl <;> exact ⟨_, rfl⟩
  rw [hq, busRequest_simulator q hdev, onBus_busy _ q hbusy]
  rfl

/-- Settles O45: one idle write law per length, and the bound decides between the two data cases. -/
theorem idleSimulatorTakesAWrite : Obligations.IdleSimulatorTakesAWrite := by
  intro s dev rx hdev hidle
  refine ⟨?_, fun x => ?_, fun x y => ?_, fun x y data hdata hout => ?_, fun x y data hdata hfit => ?_⟩ <;>
    rw [exec_busWrite_simulator dev rx _ hdev]
  · rw [handleWrite_idle_short hidle (by decide)]; rfl
  · rw [handleWrite_idle_short hidle (by simp)]; rfl
  · rw [handleWrite_idle_address hidle rfl, ofNat_writeAddress]; rfl
  · rw [handleWrite_idle_beyond hidle (three_le_length_cons_cons hdata) (by simpa using hout)]; rfl
  · rw [handleWrite_idle_stored hidle (three_le_length_cons_cons hdata) (by simpa using hfit), writeAddress_cons_cons,
      writeData_cons_cons]
    rfl

/-- Settles O47: an idle simulator answers from `PTR`, and the bound decides. -/
theorem idleSimulatorAnswersARead : Obligations.IdleSimulatorAnswersARead := by
  intro s dev x n hdev hidle
  rw [exec_busRead_simulator dev x n hdev, handleRead_idle hidle]
  exact ⟨fun hin => by rw [idleRead_inside hin]; rfl, fun hout => by rw [idleRead_beyond hout]; rfl⟩

/-! The status of each kind of request (R196). -/

theorem handleWrite_status (T : Nat) (tx : List Byte) (m : Simulator) :
    (handleWrite T tx m).1.status =
      if m.busyf = true then .notAcknowledged
      else if 3 ≤ tx.length ∧ Config.capacity < writeAddress tx + (writeData tx).length then .generalError
      else .ok := by
  rcases handleWrite_cases T tx m with ⟨hb, e⟩ | ⟨hb, h1, e⟩ | ⟨hb, h1, e⟩ | ⟨hb, h1, h2, e⟩ | ⟨hb, h1, h2, e⟩
  · rw [e, if_pos hb]; rfl
  all_goals rw [e, if_neg (by simp [hb])]
  · rw [if_neg (by omega)]; rfl
  · rw [if_neg (by omega)]; rfl
  · rw [if_pos ⟨h1, h2⟩]; rfl
  · rw [if_neg (by omega)]; rfl

theorem idleRead_status (n : Nat) (m : Simulator) :
    (idleRead n m).1.status = if Config.capacity < m.ptr.toNat + n then .generalError else .ok := by
  unfold idleRead; split <;> rfl

theorem handleRead_status (T n : Nat) (m : Simulator) :
    (handleRead T n m).1.status =
      if m.busyf = true then .notAcknowledged
      else if Config.capacity < m.ptr.toNat + n then .generalError
      else .ok := by
  unfold handleRead
  split
  · rfl
  · exact idleRead_status n m

theorem handleWriteRead_status (T n : Nat) (tx : List Byte) (m : Simulator) :
    (handleWriteRead T tx n m).1.status =
      if m.busyf = true ∨ (3 ≤ tx.length ∧ writeAddress tx + (writeData tx).length ≤ Config.capacity) then .notAcknowledged
      else if (3 ≤ tx.length ∧ Config.capacity < writeAddress tx + (writeData tx).length)
        ∨ (tx.length < 2 ∧ Config.capacity < m.ptr.toNat + n)
        ∨ (tx.length = 2 ∧ Config.capacity < writeAddress tx + n) then .generalError
      else .ok := by
  cases hb : m.busyf
  case true => rw [handleWriteRead_busy hb, if_pos (.inl rfl)]; rfl
  case false =>
    have hptr : (BitVec.ofNat 16 (writeAddress tx)).toNat = writeAddress tx := by simp [writeAddress]
    simp only [Bool.false_eq_true, false_or]
    rcases Nat.lt_trichotomy tx.length 2 with h | h | h
    · rw [if_neg (by omega), handleWriteRead_idle_short hb h, idleRead_status]
      exact if_congr (by omega) rfl rfl
    · rw [if_neg (by omega), handleWriteRead_idle_address hb h, idleRead_status, hptr]
      exact if_congr (by omega) rfl rfl
    · rcases Nat.lt_or_ge Config.capacity (writeAddress tx + (writeData tx).length) with hc | hc
      · rw [handleWriteRead_idle_beyond hb h hc, if_neg (by omega), if_pos (.inl ⟨h, hc⟩)]
        rfl
      · rw [handleWriteRead_idle_stored hb h hc, if_pos ⟨h, hc⟩]
        rfl

/-- What a status chosen in this order says about the two conditions. -/
theorem status_of_ite {busy beyond : Prop} [Decidable busy] [Decidable beyond] {st : BusStatus}
    (h : st = if busy then .notAcknowledged else if beyond then .generalError else .ok) :
    st ≠ .timeout ∧ (st = .notAcknowledged ↔ busy) ∧ (st = .generalError ↔ ¬ busy ∧ beyond) := by
  subst h
  split_ifs with hbusy hbeyond <;> simp [*]

/-- Settles O50: each kind of request chooses its status in one order, busy before bounds (R182, R189). -/
theorem statusesOfTheSimulator : Obligations.StatusesOfTheSimulator := by
  rintro T ⟨kind, dev, tx, n⟩ m
  cases kind
  case write =>
    obtain ⟨htimeout, hbusy, hbeyond⟩ := status_of_ite (handleWrite_status T tx m)
    refine ⟨htimeout, hbusy.trans ?_, hbeyond.trans ?_, rfl⟩ <;> simp
  case read =>
    obtain ⟨htimeout, hbusy, hbeyond⟩ := status_of_ite (handleRead_status T n m)
    refine ⟨htimeout, hbusy.trans ?_, hbeyond.trans ?_, rfl⟩ <;> simp
  case writeRead =>
    obtain ⟨htimeout, hbusy, hbeyond⟩ := status_of_ite (handleWriteRead_status T n tx m)
    refine ⟨htimeout, hbusy.trans ?_, hbeyond.trans ?_, rfl⟩
    · simp
    · rw [not_or, Bool.not_eq_true, and_assoc]
      refine and_congr_right fun _ => ?_
      simp only [ne_eq, reduceCtorEq, not_false_eq_true, true_and, false_and, false_or]
      omega

/-! Words that are no row (R190, R194). -/

theorem step_of_rejected_packet {s : State} {p : Packet} {rest : List Input} {e : DecodeError}
    (hin : s.env.inputs = .packet p :: rest) (he : decode p = .error e) : step s = rejectPacket p (withInputs rest s) := by
  simp only [step, hin, runInput, runPacket, he]

theorem headerReserved_iff (q : Word) : headerReserved q = true ↔ q.toNat % 4 = 3 ∨ q.toNat / 512 % 128 ≠ 0 := by
  rw [headerReserved, Bool.or_eq_true, decide_eq_true_iff, decide_eq_true_iff, ne_eq, busRsvField_eq_zero_iff,
    kindField_eq_iff q 3 (by decide), or_comm]

/-- A reserved header is rejected whatever payload stands with it (R101). -/
theorem decode_b_of_headerReserved {q : Word} (tx : List Byte) (h : headerReserved q = true) :
    ∃ e, decode (.b q tx) = .error e := by
  rw [headerReserved, Bool.or_eq_true, decide_eq_true_iff, decide_eq_true_iff] at h
  by_cases hrsv : busRsvField q = 0#7
  · exact ⟨.reservedKind, by simp [decode, decodeB, hrsv, h.resolve_left (not_not_intro hrsv)]⟩
  · exact ⟨.reservedBits, if_pos hrsv⟩

/-- A reserved control word is rejected (R102). -/
theorem decode_s_of_reserved {w : Word} (h : w.toNat % 16 = 0 ∨ 5 ≤ w.toNat % 16 ∨ w.toNat / 16 % 4096 ≠ 0) :
    ∃ e, decode (.s w) = .error e := by
  by_cases hrsv : rsvField w = 0#12
  · have hop (k : Nat) (hk : 1 ≤ k ∧ k ≤ 4) : opField w ≠ BitVec.ofNat 4 k := by
      rw [ne_eq, opField_eq_iff w k (by omega)]
      have := (rsvField_eq_zero_iff w).mp hrsv
      omega
    exact ⟨.reservedControl, by
      simp only [decode, decodeS, hrsv, hop 1 (by decide), hop 2 (by decide), hop 3 (by decide), hop 4 (by decide),
        ne_eq, not_true_eq_false, if_false]⟩
  · exact ⟨.reservedBits, if_pos hrsv⟩

theorem reservedBusRequest_simulator {s : State} (q : Word) (h : s.params.device = .simulator) :
    reservedBusRequest q s = simAnswered (plainAnswer .generalError, s.sim) s := by
  simp only [reservedBusRequest, h, reservedRequest, simAnswered]

/-- Settles O11: neither word decodes, so the step is the rejection of its packet, which only latches the answer. -/
theorem reservedWordsChangeNothing : Obligations.ReservedWordsChangeNothing := by
  refine fun s w tx rest hdev => ⟨fun hin hres => ?_, fun hin hres => ?_⟩
  · have hhead := (headerReserved_iff w).mpr hres
    obtain ⟨e, he⟩ := decode_b_of_headerReserved tx hhead
    rw [step_of_rejected_packet hin he, rejectPacket, if_pos hhead,
      reservedBusRequest_simulator (s := withInputs rest s) w hdev]
    rfl
  · obtain ⟨e, he⟩ := decode_s_of_reserved hres
    rw [step_of_rejected_packet hin he]
    rfl

/-! Control words (R188, R191 to R193). -/

theorem peek_inside {m : Simulator} {index : Half} (h : index.toNat < Config.capacity) :
    peek m index = ⟨false, (m.mem.read index.toNat).setWidth 32⟩ := if_pos h

theorem peek_beyond {m : Simulator} {index : Half} (h : Config.capacity ≤ index.toNat) : peek m index = ⟨true, 0#32⟩ :=
  if_neg (by omega)

theorem exec_simPeek (index : Half) (s : State) :
    exec (.simPeek index) s = .next { s with env := { s.env with ctlOut := peek s.sim index } } := rfl

/-- Settles O52: the initial memory lists no address, so every byte reads as the fill. -/
theorem simResetRestoresTheInitialState : Obligations.SimResetRestoresTheInitialState :=
  fun _ _ _ => ⟨_, rfl, Memory.read_nil, rfl, rfl, rfl, rfl⟩

/-- Settles O53: the three operations write the answer's latch alone, each with the number its field holds. -/
theorem simIntrospectionHasNoSideEffect : Obligations.SimIntrospectionHasNoSideEffect := by
  refine fun s index _ => ⟨fun hin => ?_, fun hout => ?_, ?_, ?_⟩
  · rw [exec_simPeek, peek_inside hin, BitVec.ofNat_toNat]
  · rw [exec_simPeek, peek_beyond hout]
  · rw [← BitVec.toNat_ofBool, BitVec.ofNat_toNat]; rfl
  · rw [BitVec.ofNat_toNat]; rfl

end Sys2Proof.Machine

namespace Sys2Proof

/-! The decoder of formats B and S by its fields (R97, R101, R102), and encode and decode one after the other. -/

section
variable {q : Word} {tx : List Byte} (hrsv : busRsvField q = 0#7)
include hrsv

theorem decodeB_write (hkind : kindField q = 0#2) (hlen : tx.length = (txlenField q).toNat) :
    decodeB q tx = .ok (.busWrite (devField q) (rxlenField q) tx) := by
  simp [decodeB, payloadBytes, hrsv, hkind, hlen]

theorem decodeB_read (hkind : kindField q = 1#2) :
    decodeB q [] = .ok (.busRead (devField q) (txlenField q) (rxlenField q)) := by
  simp [decodeB, payloadBytes, hrsv, hkind]

theorem decodeB_writeRead (hkind : kindField q = 2#2) (hlen : tx.length = (txlenField q).toNat) :
    decodeB q tx = .ok (.busWriteRead (devField q) tx (rxlenField q)) := by
  simp [decodeB, payloadBytes, hrsv, hkind, hlen]

end

theorem payloadFits_iff (tx : List Byte) : payloadFits tx = true ↔ tx.length ≤ 255 := decide_eq_true_iff

/-- A payload that fits TXLEN is counted by it exactly. -/
theorem toNat_ofNat_length {tx : List Byte} (h : payloadFits tx = true) : (BitVec.ofNat 8 tx.length).toNat = tx.length := by
  have := (payloadFits_iff tx).mp h
  rw [BitVec.toNat_ofNat]; omega

/-- Settles O2: each field is read back from where the encoder put it, and OP, KIND or SOP then names the row. -/
theorem decodeOfEncodeIsTheInstruction : Obligations.DecodeOfEncodeIsTheInstruction := by
  intro i hwf
  cases i with
  | busWrite dev rxlen tx =>
    exact (decodeB_write (by simp) (by simp) (by simp [toNat_ofNat_length hwf])).trans (by simp)
  | busRead dev txlen rxlen => exact (decodeB_read (by simp) (by simp)).trans (by simp)
  | busWriteRead dev tx rxlen =>
    exact (decodeB_writeRead (by simp) (by simp) (by simp [toNat_ofNat_length hwf])).trans (by simp)
  | encodeTemp addr arg => exact Machine.decodeH_commandWord_1 addr arg
  | decodeCode addr arg => exact Machine.decodeH_commandWord_2 addr arg
  | logData addr arg => exact Machine.decodeH_commandWord_3 addr arg
  | readData addr arg => exact Machine.decodeH_commandWord_4 addr arg
  | waitComplete addr arg => exact Machine.decodeH_commandWord_5 addr arg
  | simReset index => simp [encode, decode, decodeS]
  | simPeek index => simp [encode, decode, decodeS]
  | simGetBusy index => simp [encode, decode, decodeS]
  | simGetCount index => simp [encode, decode, decodeS]

/-! A packet that decodes is the encoding of what it decodes to, format by format. -/

/-- A command or control word whose fields are known is put together from them. -/
theorem commandWord_of_fields {w : Word} {op : BitVec 4} (hrsv : rsvField w = 0#12) (hop : opField w = op) :
    commandWord (addrField w) op = w := hop ▸ commandWord_fields hrsv

theorem busHeader_of_fields {q : Word} {kind : BitVec 2} {txlen : Byte} (hrsv : busRsvField q = 0#7)
    (hkind : kindField q = kind) (hlen : txlenField q = txlen) :
    busHeader kind (devField q) txlen (rxlenField q) = q := hkind ▸ hlen ▸ busHeader_fields hrsv

theorem encode_of_decodeH {arg cmd : Word} {i : Instr} (h : decodeH arg cmd = .ok i) :
    encode i = .h arg cmd ∧ i.wellFormed = true := by
  unfold decodeH at h
  split_ifs at h with hrsv h1 h2 h3 h4 h5 <;> cases h <;>
    exact ⟨congrArg (Packet.h arg) (commandWord_of_fields (not_not.mp hrsv) ‹_›), rfl⟩

theorem encode_of_decodeS {w : Word} {i : Instr} (h : decodeS w = .ok i) : encode i = .s w ∧ i.wellFormed = true := by
  unfold decodeS at h
  split_ifs at h with hrsv h1 h2 h3 h4 <;> cases h <;>
    exact ⟨congrArg Packet.s (commandWord_of_fields (not_not.mp hrsv) ‹_›), rfl⟩

/-- A payload of the length its header calls for. -/
theorem payload_of_txlen {q : Word} {tx : List Byte} (hkind : kindField q ≠ 1#2) (hlen : tx.length = payloadBytes q) :
    txlenField q = BitVec.ofNat 8 tx.length ∧ payloadFits tx = true := by
  rw [payloadBytes, if_neg hkind] at hlen
  refine ⟨by rw [hlen, BitVec.ofNat_toNat, BitVec.setWidth_eq], (payloadFits_iff tx).mpr ?_⟩
  have := (txlenField q).isLt
  omega

theorem encode_of_decodeB {q : Word} {tx : List Byte} {i : Instr} (h : decodeB q tx = .ok i) :
    encode i = .b q tx ∧ i.wellFormed = true := by
  unfold decodeB at h
  split_ifs at h with hrsv h3 hlen h0 h1 <;> cases h <;> rw [not_not] at hrsv hlen
  · obtain ⟨htx, hfit⟩ := payload_of_txlen (by simp [h0]) hlen
    exact ⟨congrArg (Packet.b · tx) (busHeader_of_fields hrsv h0 htx), hfit⟩
  · rw [payloadBytes, if_pos h1, List.length_eq_zero_iff] at hlen
    exact ⟨congrArg₂ Packet.b (busHeader_of_fields hrsv h1 rfl) hlen.symm, rfl⟩
  · obtain ⟨htx, hfit⟩ := payload_of_txlen h1 hlen
    have h2 : kindField q = 2#2 := by
      generalize kindField q = k at h0 h1 h3
      revert k; decide
    exact ⟨congrArg (Packet.b · tx) (busHeader_of_fields hrsv h2 htx), hfit⟩

/-- Settles O3: the decoder rejects a packet with a reserved bit or a wrong payload, and any other packet is the one its
fields make. -/
theorem encodeOfDecodeIsThePacket : Obligations.EncodeOfDecodeIsThePacket := by
  intro p i h
  cases p with
  | h arg cmd => exact encode_of_decodeH h
  | b q payload => exact encode_of_decodeB h
  | s w => exact encode_of_decodeS h

/-! Words as numbers. -/

theorem decodeS_of_rsvField_ne {w : Word} (h : rsvField w ≠ 0#12) : decodeS w = .error .reservedBits := if_pos h

/-- With RSV 0 the answer is the operation that SOP names, and `none` for a reserved SOP (R102). -/
theorem decodeS_toOption_of_rsvField_eq {w : Word} (h : rsvField w = 0#12) :
    (decodeS w).toOption =
      if opField w = 1#4 then some (.simReset (addrField w))
      else if opField w = 2#4 then some (.simPeek (addrField w))
      else if opField w = 3#4 then some (.simGetBusy (addrField w))
      else if opField w = 4#4 then some (.simGetCount (addrField w))
      else none := by
  simp only [decodeS, h, ne_eq, not_true_eq_false, if_false, apply_ite Except.toOption]
  rfl

/-- The length a header calls for, as a number. -/
theorem txlenField_toNat (q : Word) : (txlenField q).toNat = q.toNat / 65536 % 256 := by
  rw [txlenField_eq, BitVec.toNat_ofNat]

/-- Settles O5: a reserved header is rejected whatever payload stands with it; every other field is the number R97 or R102
gives it. -/
theorem busAndControlWordsReadTheirFields : Obligations.BusAndControlWordsReadTheirFields := by
  refine ⟨fun q tx => ⟨fun hres => ?_, fun hrsv hkind hlen => ?_, fun hrsv hkind => ?_, fun hrsv hkind hlen => ?_⟩,
    fun w => ?_⟩
  · obtain ⟨e, he⟩ := Machine.decode_b_of_headerReserved tx ((Machine.headerReserved_iff q).mpr hres.symm)
    rw [he]; rfl
  · rw [← devField_eq, ← rxlenField_eq]
    exact decodeB_write ((busRsvField_eq_zero_iff q).mpr hrsv) ((kindField_eq_iff q 0 (by decide)).mpr hkind)
      (by rw [hlen, txlenField_toNat])
  · rw [← devField_eq, ← rxlenField_eq, ← txlenField_eq]
    exact decodeB_read ((busRsvField_eq_zero_iff q).mpr hrsv) ((kindField_eq_iff q 1 (by decide)).mpr hkind)
  · rw [← devField_eq, ← rxlenField_eq]
    exact decodeB_writeRead ((busRsvField_eq_zero_iff q).mpr hrsv) ((kindField_eq_iff q 2 (by decide)).mpr hkind)
      (by rw [hlen, txlenField_toNat])
  · by_cases hrsv : w.toNat / 16 % 4096 = 0
    · have hop := opField_eq_iff w
      rw [decode, decodeS_toOption_of_rsvField_eq ((rsvField_eq_zero_iff w).mpr hrsv), addrField_eq,
        if_neg (not_not_intro hrsv)]
      simp only [hop 1 (by decide), hop 2 (by decide), hop 3 (by decide), hop 4 (by decide)]
    · rw [decode, decodeS_of_rsvField_ne (mt (rsvField_eq_zero_iff w).mp hrsv), if_pos hrsv]
      rfl

/-- Settles O1: the decoder evaluates each of the twelve words. -/
theorem specWordsDecodeToTheirRows : Obligations.SpecWordsDecodeToTheirRows := by
  unfold Obligations.SpecWordsDecodeToTheirRows
  decide

/-- The operand of DECODE is the code, zero-extended (R106). -/
theorem append_zero_eq_setWidth (c : Half) : (0#16 ++ c : Word) = c.setWidth 32 := by
  apply BitVec.eq_of_toNat_eq
  have := c.isLt
  rw [append_toNat]; simp; omega

/-- Settles O6: each line's word is the sum of its fields at their places, with 0 in the fields the command ignores. -/
theorem assembledWords : Obligations.AssembledWords := by
  refine ⟨fun t => rfl, fun c => congrArg (Packet.h · 2#32) (append_zero_eq_setWidth c), fun a t => ?_, fun a => ?_, rfl,
    fun d tx hlen => ?_, fun d n => ?_, fun d tx n hlen => ?_, rfl, fun x => ?_, rfl, rfl⟩ <;>
    simp only [Machine.assemble, encode, commandWord_eq_ofNat, busHeader_eq_ofNat]
  · rfl
  · rfl
  · rw [toNat_ofNat_length ((payloadFits_iff tx).mpr hlen)]; simp
  · simp
  · rw [toNat_ofNat_length ((payloadFits_iff tx).mpr hlen)]; rfl
  · rfl

/-- DEV stands at its own bits, apart from the other fields (R97). -/
theorem busHeader_eq_or_dev (kind : BitVec 2) (dev : BitVec 7) (txlen rxlen : Byte) :
    busHeader kind dev txlen rxlen = busHeader kind 0#7 txlen rxlen ||| dev.setWidth 32 <<< 2 := by
  unfold busHeader
  ext i hi
  simp only [BitVec.getElem_or, BitVec.getElem_append, BitVec.getElem_shiftLeft, BitVec.getElem_setWidth]
  interval_cases i <;> simp

theorem hiByte_eq_ofNat (v : Half) : hiByte v = BitVec.ofNat 8 (v.toNat / 256) := by
  rw [← hiByte_toNat, BitVec.ofNat_toNat, BitVec.setWidth_eq]

theorem loByte_eq_ofNat (v : Half) : loByte v = BitVec.ofNat 8 v.toNat := by
  apply BitVec.eq_of_toNat_eq
  rw [loByte_toNat, BitVec.toNat_ofNat]

/-- Settles O37: each header is the row's constant with DEV put in, and the payload bytes are the halves of address and
code. -/
theorem sequencerRequestHeaders : Obligations.SequencerRequestHeaders := by
  intro d a c
  refine ⟨?_, ?_, ?_⟩
  · have hzero : busHeader 0#2 0#7 0#8 0#8 = 0#32 := by decide
    have hprobe := busHeader_eq_or_dev 0#2 d 0#8 0#8
    rw [hzero, BitVec.zero_or] at hprobe
    exact congrArg (Packet.b · []) hprobe
  · rw [← hiByte_eq_ofNat, ← hiByte_eq_ofNat, ← loByte_eq_ofNat, ← loByte_eq_ofNat]
    exact congrArg (Packet.b · _) (busHeader_eq_or_dev 0#2 d 4#8 0#8)
  · rw [← hiByte_eq_ofNat, ← loByte_eq_ofNat]
    exact congrArg (Packet.b · _) (busHeader_eq_or_dev 2#2 d 2#8 2#8)

end Sys2Proof

namespace Sys2Proof.Machine

/-! One step of the sequencer, by what it does (R157). -/

/-- The two users of the poll loop: LOG_DATA and WAIT_COMPLETE. -/
def PollLabel (label : Poll → Seq) : Prop := label = .logPoll ∨ label = .waitPoll

theorem PollLabel.ne_idle {label : Poll → Seq} (h : PollLabel label) (p : Poll) : label p ≠ .idle := by
  rcases h with rfl | rfl <;> exact Seq.noConfusion

/-- The state after the sequencer's request `q`, sent from `s`, got the answer `r` of a device that is then `d`. -/
def transferred (l : Seq) (q : BusRequest) (r : BusResponse) (d : Device) (s : State) : State :=
  goto l (recordTransfer q r (withDevice d s))

/-- The attempt that a probe at a step of the poll loop is: the first one, or one more than the last. -/
def nextAttempt (p : Poll) (att : Nat) : Nat := if p = .first then 1 else att + 1

/-- What one step of the sequencer can do. -/
inductive SeqMove (s : State) : State → Prop where
  /-- No command runs (R254). -/
  | idles (hseq : s.seqr.seq = .idle) : SeqMove s s
  /-- The device does not answer (I17). -/
  | waits (hdev : s.params.device = .silent) : SeqMove s s
  /-- `finish` (R141). -/
  | finishes (ok : Bool) (err : ErrCause) (v : Word) (c : Half) (hseq : s.seqr.seq ≠ .idle)
      (hok : ok = true ↔ err = .noError) : SeqMove s (finish ok err v c s)
  /-- `finish` after the budget was exhausted (R150). -/
  | exhausts (label : Poll → Seq) (v : Word) (c : Half) (hlabel : PollLabel label)
      (hseq : s.seqr.seq = label .exhausted) : SeqMove s (finish true .noError v c (setExhausted s))
  /-- The delay after a failed probe. -/
  | delays (label : Poll → Seq) (hlabel : PollLabel label) (hseq : s.seqr.seq = label .delay) :
      SeqMove s (goto (label (if s.seqr.att < Config.maxAttempts then .again else .exhausted)) s)
  /-- A probe. -/
  | probes (label : Poll → Seq) (p : Poll) (r : BusResponse) (d : Device) (hlabel : PollLabel label)
      (hseq : s.seqr.seq = label p) (hp : p = .first ∨ p = .again)
      (hanswer : answerOf s.params (probe s.params) (deviceOf s) = some (r, d)) :
      SeqMove s (transferred (label (if r.status = .ok then .done else .delay)) (probe s.params) r d
        (countProbe (nextAttempt p s.seqr.att) s))
  /-- The data write of LOG_DATA. -/
  | writesData (a c : Half) (r : BusResponse) (d : Device) (hseq : s.seqr.seq = .logData) (hcap : capOk a = true)
      (hanswer : answerOf s.params (dataWriteRequest s.params.devAddr a c) (deviceOf s) = some (r, d)) :
      SeqMove s (transferred (if r.status = .ok then .logPoll .first else .logFail)
        (dataWriteRequest s.params.devAddr a c) r d (loadTx (logPayload a c) s))
  /-- The read-back of READ_DATA. -/
  | readsBack (a : Half) (r : BusResponse) (d : Device) (hseq : s.seqr.seq = .readData) (hread : readOk a = true)
      (hanswer : answerOf s.params (readBackRequest s.params.devAddr a) (deviceOf s) = some (r, d)) :
      SeqMove s (transferred (if r.status = .ok then .readDone else .readFail)
        (readBackRequest s.params.devAddr a) r d s)

/-- An answer, unless the device is silent. -/
theorem answerOf_cases (p : Params) (q : BusRequest) (d : Device) :
    (p.device = .silent ∧ answerOf p q d = none) ∨ ∃ r d', answerOf p q d = some (r, d') := by
  by_cases h : p.device = .silent
  · exact .inl ⟨h, answerOf_silent d q h⟩
  · exact .inr (answerOf_isSome d q h)

theorem probeStep_move {label : Poll → Seq} {p : Poll} {s : State} (hlabel : PollLabel label)
    (hseq : s.seqr.seq = label p) (hp : p = .first ∨ p = .again) :
    SeqMove s (probeStep label (nextAttempt p s.seqr.att) s) := by
  rcases answerOf_cases s.params (probe s.params) (deviceOf s) with ⟨hdev, hnone⟩ | ⟨r, d, hr⟩
  · rw [probeStep_none hnone]; exact .waits hdev
  · rw [probeStep_some hr]; exact .probes label p r d hlabel hseq hp hr

theorem pollStep_move {label : Poll → Seq} {ending : State → State} {p : Poll} {s : State} (hlabel : PollLabel label)
    (hending : ∀ t, ∃ v c, ending t = finish true .noError v c t) (hseq : s.seqr.seq = label p) :
    SeqMove s (pollStep label ending p s) := by
  cases p with
  | first => exact probeStep_move hlabel hseq (.inl rfl)
  | again => exact probeStep_move hlabel hseq (.inr rfl)
  | delay => exact .delays label hlabel hseq
  | done =>
    obtain ⟨v, c, h⟩ := hending s
    rw [pollStep, h]
    exact .finishes true .noError v c (hseq ▸ hlabel.ne_idle _) (by simp)
  | exhausted =>
    obtain ⟨v, c, h⟩ := hending (setExhausted s)
    rw [pollStep, h]
    exact .exhausts label v c hlabel hseq

/-- The data write waits for a device that does not answer (I17). -/
theorem logDataStep_none {s : State} (hcap : capOk (addrOperand s) = true) (hpage : pageOk (addrOperand s) = true)
    (hnone : answerOf s.params (dataWriteRequest s.params.devAddr (addrOperand s) (enc (tempOperand s))) (deviceOf s)
      = none) : logDataStep s = s := by
  rw [dataWriteRequest] at hnone
  simp [logDataStep, hcap, hpage, dataWriteStep, xfer_eq, hnone]

theorem logDataStep_move {s : State} (hseq : s.seqr.seq = .logData) : SeqMove s (logDataStep s) := by
  have hne : s.seqr.seq ≠ .idle := by rw [hseq]; exact Seq.noConfusion
  by_cases hcap : capOk (addrOperand s) = true
  · by_cases hpage : pageOk (addrOperand s) = true
    · rcases answerOf_cases s.params (dataWriteRequest s.params.devAddr (addrOperand s) (enc (tempOperand s)))
        (deviceOf s) with ⟨hdev, hnone⟩ | ⟨r, d, hr⟩
      · rw [logDataStep_none hcap hpage hnone]; exact .waits hdev
      · rw [logDataStep_some rfl rfl hcap hpage hr]
        exact .writesData _ _ r d hseq hcap hr
    · rw [logDataStep, if_neg (by simp [hcap]), if_pos (by simpa using hpage)]
      exact .finishes _ _ _ _ hne (by simp)
  · rw [logDataStep, if_pos (by simpa using hcap)]
    exact .finishes _ _ _ _ hne (by simp)

/-- So does the read-back. -/
theorem readDataStep_none {s : State} (hread : readOk (addrOperand s) = true)
    (hnone : answerOf s.params (readBackRequest s.params.devAddr (addrOperand s)) (deviceOf s) = none) :
    readDataStep s = s := by
  rw [readBackRequest] at hnone
  simp [readDataStep, hread, xfer_eq, hnone]

theorem readDataStep_move {s : State} (hseq : s.seqr.seq = .readData) : SeqMove s (readDataStep s) := by
  by_cases hread : readOk (addrOperand s) = true
  · rcases answerOf_cases s.params (readBackRequest s.params.devAddr (addrOperand s)) (deviceOf s) with
      ⟨hdev, hnone⟩ | ⟨r, d, hr⟩
    · rw [readDataStep_none hread hnone]; exact .waits hdev
    · rw [readDataStep_some rfl hread hr]
      exact .readsBack _ r d hseq hread hr
  · rw [readDataStep, if_pos (by simpa using hread)]
    exact .finishes _ _ _ _ (by rw [hseq]; exact Seq.noConfusion) (by simp)

/-- Every step of the sequencer is one of these moves. -/
theorem seqStep_move (s : State) : SeqMove s (seqStep s) := by
  have hfinish {l : Seq} (hl : s.seqr.seq = l) (hne : l ≠ .idle) (ok : Bool) (err : ErrCause) (v : Word) (c : Half)
      (hok : ok = true ↔ err = .noError) : SeqMove s (finish ok err v c s) := .finishes ok err v c (hl ▸ hne) hok
  unfold seqStep
  cases hseq : s.seqr.seq with
  | idle => exact .idles hseq
  | encodeTemp => exact hfinish hseq Seq.noConfusion _ _ _ _ (by simp)
  | decodeCode => exact hfinish hseq Seq.noConfusion _ _ _ _ (by simp)
  | illegal => exact hfinish hseq Seq.noConfusion _ _ _ _ (by simp)
  | logFail => exact hfinish hseq Seq.noConfusion _ _ _ _ (by simp)
  | readFail => exact hfinish hseq Seq.noConfusion _ _ _ _ (by simp)
  | readDone => exact hfinish hseq Seq.noConfusion _ _ _ _ (by simp)
  | logData => exact logDataStep_move hseq
  | readData => exact readDataStep_move hseq
  | logPoll p => exact pollStep_move (.inl rfl) (fun t => ⟨_, _, rfl⟩) hseq
  | waitPoll p => exact pollStep_move (.inr rfl) (fun t => ⟨_, _, rfl⟩) hseq

/-! What a packet does, by its format. -/

/-- What an event with a packet can do. -/
inductive PacketMove (s : State) : Packet → State → Prop where
  /-- Format H, legal or not (R91, R151). -/
  | command (arg cmd : Word) : PacketMove s (.h arg cmd) (runCommand arg cmd s)
  /-- A bus request (R180). -/
  | request (header : Word) (payload : List Byte) (q : BusRequest) : PacketMove s (.b header payload) (busRequest q s)
  /-- A reserved bus request (R190). -/
  | reserved (header : Word) (payload : List Byte) : PacketMove s (.b header payload) (reservedBusRequest header s)
  /-- A control word (R188 to R194): an answer, and the simulator as it was or reset. -/
  | control (w : Word) (m : Simulator) (serr : Bool) (sval : Word) (hm : m = s.sim ∨ m = .initial) :
      PacketMove s (.s w) (answerControl serr sval (withSim m s))

theorem exec_move {s t : State} {i : Instr} (h : exec i s = .next t) : PacketMove s (encode i) t := by
  cases i with
  | encodeTemp addr arg => cases h; exact .command _ _
  | decodeCode addr arg => cases h; exact .command _ _
  | logData addr arg => cases h; exact .command _ _
  | readData addr arg => cases h; exact .command _ _
  | waitComplete addr arg => cases h; exact .command _ _
  | busWrite dev rxlen tx => cases h; exact .request _ _ _
  | busRead dev txlen rxlen => cases h; exact .request _ _ _
  | busWriteRead dev tx rxlen => cases h; exact .request _ _ _
  | simReset index => cases h; exact .control _ _ _ _ (.inr rfl)
  | simPeek index => cases h; exact .control _ _ _ _ (.inl rfl)
  | simGetBusy index => cases h; exact .control _ _ _ _ (.inl rfl)
  | simGetCount index => cases h; exact .control _ _ _ _ (.inl rfl)

theorem rejectPacket_move {s t : State} {p : Packet} (h : rejectPacket p s = .next t) : PacketMove s p t := by
  cases p with
  | h arg cmd => cases h; exact .command arg cmd
  | b header payload =>
    rw [rejectPacket] at h
    split at h
    · cases h; exact .reserved header payload
    · cases h
  | s w => cases h; exact .control w s.sim _ _ (.inl rfl)

theorem runPacket_move {s t : State} {p : Packet} (h : runPacket p s = .next t) : PacketMove s p t := by
  unfold runPacket at h
  split at h
  next i hi => exact (encodeOfDecodeIsThePacket p i hi).1 ▸ exec_move h
  next => exact rejectPacket_move h

/-- Every command word, legal or not, is the run of its command (R91, R151). -/
theorem runPacket_command (arg cmd : Word) (s : State) :
    runPacket (.h arg cmd) s = .next (runCommand arg cmd s) := by
  unfold runPacket
  split
  next i hi => exact (exec_of_encode_h (encode_of_decodeH hi).1).2 s
  next => rfl

/-! The invariant, part by part. -/

/-- The counters of a poll user are those of the loop, after its `base` transactions. -/
theorem PollLabel.counts {label : Poll → Seq} (h : PollLabel label) :
    ∃ base ≤ 1, ∀ p polls att n, seqCounts (label p) polls att n ↔ pollCounts base p polls att n := by
  rcases h with rfl | rfl
  · exact ⟨1, le_rfl, fun _ _ _ _ => Iff.rfl⟩
  · exact ⟨0, Nat.zero_le 1, fun _ _ _ _ => Iff.rfl⟩

theorem pollCounts_le {base polls att n : Nat} {p : Poll} (hbase : base ≤ 1) (h : pollCounts base p polls att n) :
    polls ≤ 100 ∧ n ≤ 101 := by
  cases p <;> simp only [pollCounts, maxAttempts_eq] at h <;> omega

/-- Wherever a command stands, it has counted at most 100 probes and issued at most 101 transactions. -/
theorem seqCounts_idle_of {l : Seq} {polls att n : Nat} (h : seqCounts l polls att n) : seqCounts .idle polls att n := by
  have hle : polls ≤ 100 ∧ n ≤ 101 := by
    cases l with
    | logPoll p => exact pollCounts_le le_rfl h
    | waitPoll p => exact pollCounts_le (Nat.zero_le 1) h
    | _ => simp only [seqCounts, maxAttempts_eq] at h; omega
  exact hle

/-- The flags of a running command. -/
theorem State.Inv.running {s : State} (hs : s.Inv) (hseq : s.seqr.seq ≠ .idle) :
    s.host.status.busy = true ∧ s.host.status.done = false := by
  obtain ⟨hbusy, hdone, -, -⟩ := hs.flags
  exact ⟨hbusy.mpr hseq, hdone (hbusy.mpr hseq)⟩

theorem State.Inv.pexh_eq_false {s : State} (hs : s.Inv) (hpolls : s.host.polls.toNat < 100) :
    s.host.status.pexh = false := by
  obtain ⟨-, -, -, hpexh⟩ := hs.flags
  by_contra h
  have := hpexh (by simpa using h)
  rw [maxAttempts_eq] at this
  omega

/-- The invariant reads nothing else of a state than these parts. -/
theorem State.Inv.of_same {s t : State} (hs : s.Inv) (params : t.params = s.params) (sim : t.sim = s.sim)
    (status : t.host.status = s.host.status) (polls : t.host.polls = s.host.polls) (seqr : t.seqr = s.seqr)
    (traffic : t.env.traffic = s.env.traffic) : t.Inv where
  legal := params ▸ hs.legal
  simGood := by rw [params, sim]; exact hs.simGood
  flags := by rw [status, polls, seqr]; exact hs.flags
  attRange := by rw [seqr]; exact hs.attRange
  counts := by rw [polls, seqr, traffic]; exact hs.counts
  requests := by rw [params, traffic]; exact hs.requests

theorem finish_inv {s : State} {ok : Bool} {err : ErrCause} (v : Word) (c : Half) (hs : s.Inv)
    (hok : ok = true ↔ err = .noError) : (finish ok err v c s).Inv where
  legal := hs.legal
  simGood := hs.simGood
  flags := by
    obtain ⟨-, -, -, hpexh⟩ := hs.flags
    exact ⟨by simp [Status.finished], by simp [Status.finished], fun _ => hok, hpexh⟩
  attRange := hs.attRange
  counts := seqCounts_idle_of hs.counts
  requests := hs.requests

theorem setExhausted_inv {s : State} (hs : s.Inv) (hpolls : s.host.polls.toNat = Config.maxAttempts) :
    (setExhausted s).Inv where
  legal := hs.legal
  simGood := hs.simGood
  flags := by
    obtain ⟨hbusy, hdone, hok, -⟩ := hs.flags
    exact ⟨hbusy, hdone, hok, fun _ => hpolls⟩
  attRange := hs.attRange
  counts := hs.counts
  requests := hs.requests

theorem goto_inv {s : State} {l : Seq} (hs : s.Inv) (hseq : s.seqr.seq ≠ .idle) (hl : l ≠ .idle)
    (hcounts : seqCounts l s.host.polls.toNat s.seqr.att s.env.traffic.length) : (goto l s).Inv where
  legal := hs.legal
  simGood := hs.simGood
  flags := by
    obtain ⟨hbusy, hdone, hok, hpexh⟩ := hs.flags
    exact ⟨hbusy.trans (iff_of_true hseq hl), hdone, hok, hpexh⟩
  attRange := hs.attRange
  counts := hcounts
  requests := hs.requests

/-- A transaction of a running command keeps the invariant when its request is one of R98 and its counters agree with the
label it goes to. `u` is the state the request is sent from. -/
theorem transferred_inv {s u : State} {l : Seq} {q : BusRequest} {r : BusResponse} {d : Device} (hs : s.Inv)
    (hseq : s.seqr.seq ≠ .idle) (hpolls : s.host.polls.toNat < 100) (hl : l ≠ .idle)
    (hq : sequencerRequest s.params.devAddr q) (hanswer : answerOf s.params q (deviceOf s) = some (r, d))
    (params : u.params = s.params) (status : u.host.status = s.host.status) (traffic : u.env.traffic = s.env.traffic)
    (hatt : u.seqr.att ≤ Config.maxAttempts)
    (hcounts : seqCounts l u.host.polls.toNat u.seqr.att (s.env.traffic.length + 1)) : (transferred l q r d u).Inv := by
  obtain ⟨hbusy, hdone⟩ := hs.running hseq
  have hpexh := hs.pexh_eq_false hpolls
  refine ⟨?_, ?_, ?_, hatt, ?_, ?_⟩
  · exact params ▸ hs.legal
  · show d.sim.good u.params.threshold
    rw [params]; exact answerOf_good hs.legal hs.simGood hanswer
  · show flagsAgree { u.host.status with busst := r.status } l u.host.polls.toNat
    rw [status]
    exact ⟨iff_of_true hbusy hl, fun _ => hdone, by simp [hdone], by simp [hpexh]⟩
  · show seqCounts l u.host.polls.toNat u.seqr.att (u.env.traffic ++ [_]).length
    rw [traffic, List.length_append]; exact hcounts
  · show ∀ t ∈ u.env.traffic ++ [_], sequencerRequest u.params.devAddr t.request
    rw [traffic, params]
    simpa [or_imp, forall_and] using ⟨hs.requests, hq⟩

/-- A probe adds one to the loop's counters. -/
theorem pollCounts_probe {base polls att n : Nat} {p next : Poll} (hp : p = .first ∨ p = .again)
    (hnext : next = .done ∨ next = .delay) (h : pollCounts base p polls att n) :
    polls < 100 ∧ nextAttempt p att ≤ 100 ∧ pollCounts base next (polls + 1) (nextAttempt p att) (n + 1) := by
  rcases hp with rfl | rfl <;> rcases hnext with rfl | rfl <;>
    simp only [pollCounts, nextAttempt, maxAttempts_eq, reduceCtorEq, if_true, if_false] at h ⊢ <;> omega

/-- The delay leads to the next probe, or to the end of the budget. -/
theorem pollCounts_delay {base polls att n : Nat} (h : pollCounts base .delay polls att n) :
    pollCounts base (if att < Config.maxAttempts then .again else .exhausted) polls att n := by
  obtain ⟨hpos, hle, hpolls, hn⟩ := h
  split
  next hlt => exact ⟨hpos, hlt, hpolls, hn⟩
  next hge => exact ⟨by omega, hpolls, hn⟩

/-- Every move of the sequencer keeps the invariant. -/
theorem SeqMove.inv {s t : State} (h : SeqMove s t) (hs : s.Inv) : t.Inv := by
  have hcounts := hs.counts
  cases h with
  | idles _ => exact hs
  | waits _ => exact hs
  | finishes ok err v c _ hok => exact finish_inv v c hs hok
  | exhausts label v c hlabel hseq =>
    obtain ⟨base, -, hbase⟩ := hlabel.counts
    rw [hseq, hbase] at hcounts
    obtain ⟨hatt, hpolls, -⟩ := hcounts
    exact finish_inv v c (setExhausted_inv hs (hpolls.trans hatt)) (by simp)
  | delays label hlabel hseq =>
    obtain ⟨base, -, hbase⟩ := hlabel.counts
    rw [hseq, hbase] at hcounts
    exact goto_inv hs (hseq ▸ hlabel.ne_idle _) (hlabel.ne_idle _) ((hbase ..).mpr (pollCounts_delay hcounts))
  | probes label p r d hlabel hseq hp hanswer =>
    obtain ⟨base, -, hbase⟩ := hlabel.counts
    rw [hseq, hbase] at hcounts
    obtain ⟨hpolls, hatt, hnext⟩ :=
      pollCounts_probe (next := if r.status = .ok then .done else .delay) hp (by split <;> simp) hcounts
    have hinc : (s.host.polls + 1#8).toNat = s.host.polls.toNat + 1 := by rw [BitVec.toNat_add]; simp; omega
    exact transferred_inv hs (hseq ▸ hlabel.ne_idle _) hpolls (hlabel.ne_idle _) (.inl rfl) hanswer rfl rfl rfl hatt
      ((hbase ..).mpr (by rw [countProbe_host_polls, hinc]; exact hnext))
  | writesData a c r d hseq hcap hanswer =>
    rw [hseq] at hcounts
    obtain ⟨hpolls, hn⟩ := hcounts
    refine transferred_inv hs (by rw [hseq]; exact Seq.noConfusion) (by omega) (by split <;> exact Seq.noConfusion)
      (.inr (.inl ⟨a, c, of_decide_eq_true hcap, rfl⟩)) hanswer rfl rfl rfl hs.attRange ?_
    rw [hn]
    split <;> exact ⟨hpolls, rfl⟩
  | readsBack a r d hseq hread hanswer =>
    rw [hseq] at hcounts
    obtain ⟨hpolls, hn⟩ := hcounts
    have hcap : a.toNat + 2 ≤ Config.capacity := by
      have := (readOk_iff a).mp hread
      rw [capacity_eq]; omega
    refine transferred_inv hs (by rw [hseq]; exact Seq.noConfusion) (by omega) (by split <;> exact Seq.noConfusion)
      (.inr (.inr ⟨a, hcap, rfl⟩)) hanswer rfl rfl rfl hs.attRange ?_
    rw [hn]
    split <;> exact ⟨hpolls, rfl⟩

theorem seqStep_inv {s : State} (hs : s.Inv) : (seqStep s).Inv := (seqStep_move s).inv hs

/-! The other events keep the invariant. -/

theorem cleared_inv {s : State} (hlegal : s.params.legal) (hsim : s.sim.good s.params.threshold)
    (hhost : s.host = HostRegs.cleared) (hseqr : s.seqr = Sequencer.cleared) (htraffic : s.env.traffic = []) : s.Inv where
  legal := hlegal
  simGood := hsim
  flags := by rw [hhost, hseqr]; simp [flagsAgree, HostRegs.cleared, Sequencer.cleared, Status.cleared]
  attRange := by rw [hseqr]; exact Nat.zero_le _
  counts := by rw [hhost, hseqr, htraffic]; exact ⟨Nat.zero_le _, Nat.zero_le _⟩
  requests := by simp [htraffic]

theorem startOf_decodeH_ne_idle (arg cmd : Word) : startOf (decodeH arg cmd) ≠ .idle := by
  rw [startOf_decodeH]; split_ifs <;> exact Seq.noConfusion

theorem startOf_decodeH_counts (arg cmd : Word) (att : Nat) : seqCounts (startOf (decodeH arg cmd)) 0 att 0 := by
  rw [startOf_decodeH]; split_ifs <;> exact ⟨rfl, rfl⟩

theorem accept_inv {s : State} (v : Word) (hs : s.Inv) : (accept v s).Inv where
  legal := hs.legal
  simGood := hs.simGood
  flags := by
    have hne := startOf_decodeH_ne_idle s.host.cmdArg v
    simp [flagsAgree, Status.accepted, hne]
  attRange := hs.attRange
  counts := startOf_decodeH_counts ..
  requests := by simp

theorem writeCmdArg_inv {s : State} (v : Word) (hs : s.Inv) : (writeCmdArg v s).Inv := hs.of_same rfl rfl rfl rfl rfl rfl

theorem writeCmd_inv {s : State} (v : Word) (hs : s.Inv) : (writeCmd v s).Inv := by
  unfold writeCmd
  split
  · exact ⟨hs.legal, hs.simGood, hs.flags, hs.attRange, hs.counts, hs.requests⟩
  · exact accept_inv v hs

theorem writeRegister_inv {s : State} (offset : Nat) (v : Word) (hs : s.Inv) : (writeRegister offset v s).Inv := by
  unfold writeRegister
  split_ifs
  · exact writeCmdArg_inv v hs
  · exact writeCmd_inv v hs
  · exact hs

theorem runCommand_inv {s : State} (arg cmd : Word) (hs : s.Inv) : (runCommand arg cmd s).Inv := by
  have hwrites := writeCmd_inv cmd (writeCmdArg_inv arg hs)
  unfold runCommand
  split
  · exact hwrites
  · exact runSeq_induct (P := State.Inv) (fun _ => seqStep_inv) _ _ hwrites

theorem busRequest_inv {s : State} (q : BusRequest) (hs : s.Inv) : (busRequest q s).Inv := by
  rcases busRequest_cases q s with ⟨h, -⟩ | ⟨r, d, hanswer, h⟩ <;> rw [h]
  · exact hs.of_same rfl rfl rfl rfl rfl rfl
  · have hsim : d.sim.good s.params.threshold := answerOf_good hs.legal hs.simGood hanswer
    exact ⟨hs.legal, hsim, hs.flags, hs.attRange, hs.counts, hs.requests⟩

theorem PacketMove.inv {s t : State} {p : Packet} (h : PacketMove s p t) (hs : s.Inv) : t.Inv := by
  cases h with
  | command arg cmd => exact runCommand_inv arg cmd hs
  | request header payload q => exact busRequest_inv q hs
  | reserved header payload =>
    obtain ⟨hparams, hsim, hhost, hseqr, htraffic, -⟩ := reservedBusRequest_frame header s
    exact hs.of_same hparams hsim (by rw [hhost]) (by rw [hhost]) hseqr htraffic
  | control w m serr sval hm =>
    have hsim : m.good s.params.threshold := by
      rcases hm with rfl | rfl
      · exact hs.simGood
      · exact initial_good hs.legal.1
    exact ⟨hs.legal, hsim, hs.flags, hs.attRange, hs.counts, hs.requests⟩

/-- A host access that gives a next state gives the one it was handed. -/
theorem hostAccess_next {bytes offset : Nat} {answer t : State} (h : hostAccess bytes offset answer = .next t) :
    t = answer := by
  unfold hostAccess at h
  split_ifs at h
  cases h; rfl

theorem runInput_inv {s t : State} {e : Input} (hs : s.Inv) (h : runInput e s = .next t) : t.Inv := by
  cases e with
  | packet p => exact (runPacket_move h).inv hs
  | hostWrite bytes offset v => exact hostAccess_next h ▸ writeRegister_inv offset v hs
  | hostRead bytes offset => exact hostAccess_next h ▸ hs.of_same rfl rfl rfl rfl rfl rfl
  | sequencer => cases h; exact seqStep_inv hs
  | blockReset => cases h; exact cleared_inv hs.legal hs.simGood rfl rfl rfl
  | powerUp => cases h; exact cleared_inv hs.legal (initial_good hs.legal.1) rfl rfl rfl

/-- A step is the sequencer's, or the first pending event's. -/
theorem step_cases {s t : State} (h : step s = .next t) :
    (s.env.inputs = [] ∧ t = seqStep s)
    ∨ ∃ e rest, s.env.inputs = e :: rest ∧ runInput e (withInputs rest s) = .next t := by
  unfold step at h
  split at h
  next hin => cases h; exact .inl ⟨hin, rfl⟩
  next e rest hin => exact .inr ⟨e, rest, hin, h⟩

/-- Settles O55: by cases of the event, and of the sequencer's move. -/
theorem stepKeepsTheInvariant : Obligations.StepKeepsTheInvariant := by
  intro s t hs h
  rcases step_cases h with ⟨-, rfl⟩ | ⟨e, rest, -, he⟩
  · exact seqStep_inv hs
  · exact runInput_inv (s := withInputs rest s) (hs.of_same rfl rfl rfl rfl rfl rfl) he

/-- Settles O54: the reset state is cleared, with a legal `T` and an initial simulator. -/
theorem resetMeetsTheInvariant : Obligations.ResetMeetsTheInvariant :=
  cleared_inv ⟨by decide, by decide⟩ (initial_good (by decide)) rfl rfl rfl

/-! A running command comes to its end (R155, R156). -/

/-- A bound on the steps that a poll loop still takes. -/
def pollStepsLeft (p : Poll) (att : Nat) : Nat :=
  match p with
  | .first => 2 * Config.maxAttempts + 1
  | .again => 2 * (Config.maxAttempts - att) + 1
  | .delay => 2 * (Config.maxAttempts - att) + 2
  | .done => 1
  | .exhausted => 1

/-- A bound on the steps that a command still takes. -/
def stepsLeft (l : Seq) (att : Nat) : Nat :=
  match l with
  | .idle => 0
  | .logData => longestCommand
  | .readData => 2
  | .logPoll p => pollStepsLeft p att
  | .waitPoll p => pollStepsLeft p att
  | _ => 1

theorem stepsLeft_poll {label : Poll → Seq} (h : PollLabel label) (p : Poll) (att : Nat) :
    stepsLeft (label p) att = pollStepsLeft p att := by rcases h with rfl | rfl <;> rfl

theorem stepsLeft_le (l : Seq) (att : Nat) : stepsLeft l att ≤ longestCommand := by
  have hpoll (p : Poll) : pollStepsLeft p att ≤ 202 := by
    cases p <;> simp only [pollStepsLeft, maxAttempts_eq] <;> omega
  cases l with
  | logPoll p => exact hpoll p
  | waitPoll p => exact hpoll p
  | _ => simp only [stepsLeft, longestCommand_eq]; omega

theorem stepsLeft_pos {l : Seq} (att : Nat) (h : l ≠ .idle) : 0 < stepsLeft l att := by
  have hpoll (p : Poll) : 0 < pollStepsLeft p att := by
    cases p <;> simp only [pollStepsLeft] <;> omega
  cases l with
  | idle => exact absurd rfl h
  | logPoll p => exact hpoll p
  | waitPoll p => exact hpoll p
  | _ => simp [stepsLeft, longestCommand_eq]

/-- On a device that answers, a step of a running command ends it or leaves fewer steps. -/
theorem SeqMove.progress {s t : State} (h : SeqMove s t) (hs : s.Inv) (hdev : s.params.device ≠ .silent)
    (hseq : s.seqr.seq ≠ .idle) :
    (t.seqr.seq = .idle ∧ t.host.status.done = true)
    ∨ (t.seqr.seq ≠ .idle ∧ stepsLeft t.seqr.seq t.seqr.att < stepsLeft s.seqr.seq s.seqr.att) := by
  have hcounts := hs.counts
  cases h with
  | idles h => exact absurd h hseq
  | waits h => exact absurd h hdev
  | finishes => exact .inl ⟨rfl, rfl⟩
  | exhausts => exact .inl ⟨rfl, rfl⟩
  | delays label hlabel hs =>
    refine .inr ⟨hlabel.ne_idle _, ?_⟩
    rw [goto_seqr_seq, goto_seqr_att, hs, stepsLeft_poll hlabel, stepsLeft_poll hlabel]
    split <;> simp only [pollStepsLeft] <;> omega
  | probes label p r d hlabel hs hp =>
    obtain ⟨base, -, hbase⟩ := hlabel.counts
    rw [hs, hbase] at hcounts
    refine .inr ⟨hlabel.ne_idle _, ?_⟩
    show stepsLeft (label _) (nextAttempt p s.seqr.att) < _
    rw [hs, stepsLeft_poll hlabel, stepsLeft_poll hlabel]
    rcases hp with rfl | rfl <;> split <;>
      simp only [pollCounts, pollStepsLeft, nextAttempt, maxAttempts_eq, reduceCtorEq, if_true, if_false] at hcounts ⊢ <;>
      omega
  | writesData a c r d hs =>
    refine .inr ?_
    show (if r.status = .ok then Seq.logPoll .first else .logFail) ≠ _
      ∧ stepsLeft (if r.status = .ok then Seq.logPoll .first else .logFail) s.seqr.att < _
    rw [hs]
    split <;> exact ⟨Seq.noConfusion, by simp [stepsLeft, pollStepsLeft, longestCommand]⟩
  | readsBack a r d hs =>
    refine .inr ?_
    show (if r.status = .ok then Seq.readDone else .readFail) ≠ _
      ∧ stepsLeft (if r.status = .ok then Seq.readDone else .readFail) s.seqr.att < _
    rw [hs]
    split <;> exact ⟨Seq.noConfusion, by simp [stepsLeft]⟩

theorem runSeq_ends (n : Nat) : ∀ s : State, s.Inv → s.params.device ≠ .silent → s.seqr.seq ≠ .idle →
    stepsLeft s.seqr.seq s.seqr.att ≤ n →
    (runSeq n s).seqr.seq = .idle ∧ (runSeq n s).host.status.done = true := by
  induction n with
  | zero =>
    intro s _ _ hseq hn
    have := stepsLeft_pos s.seqr.att hseq
    omega
  | succ n ih =>
    intro s hs hdev hseq hn
    rw [runSeq_succ n hseq]
    rcases (seqStep_move s).progress hs hdev hseq with ⟨hidle, hdone⟩ | ⟨hne, hlt⟩
    · rw [runSeq_idle n hidle]; exact ⟨hidle, hdone⟩
    · exact ih _ (seqStep_inv hs) (by rw [(seqStep_outside s).params]; exact hdev) hne (by omega)

/-- Settles O39: each step lowers the bound on the steps left, which is at most 202. -/
theorem everyRunningCommandFinishes : Obligations.EveryRunningCommandFinishes :=
  fun s hs hdev hseq => runSeq_ends _ s hs hdev hseq (stepsLeft_le ..)

end Sys2Proof.Machine

namespace Sys2Proof.Machine

/-! What every event keeps: the parameters, and the events still to come (R38, R79). -/

theorem step_of_packet {s : State} {p : Packet} {rest : List Input} (hin : s.env.inputs = .packet p :: rest) :
    step s = runPacket p (withInputs rest s) := by
  simp only [step, hin, runInput]

/-- Settles O7: `step` takes the event off the list, and the packet's meaning is that of the instruction it decodes to. -/
theorem stepRunsTheDecodedInstruction : Obligations.StepRunsTheDecodedInstruction := by
  intro s p i rest hin hdecode
  rw [step_of_packet hin, runPacket, hdecode]

/-- What no bus request changes. -/
theorem busRequest_frame (q : BusRequest) (s : State) :
    (busRequest q s).host = s.host ∧ (busRequest q s).seqr = s.seqr ∧ (busRequest q s).params = s.params
    ∧ (busRequest q s).env.inputs = s.env.inputs ∧ (busRequest q s).env.traffic = s.env.traffic
    ∧ (busRequest q s).env.hostOut = s.env.hostOut ∧ (busRequest q s).env.ctlOut = s.env.ctlOut := by
  rcases busRequest_cases q s with ⟨h, -⟩ | ⟨r, d, -, h⟩ <;> rw [h] <;> exact ⟨rfl, rfl, rfl, rfl, rfl, rfl, rfl⟩

theorem PacketMove.params_inputs {s t : State} {p : Packet} (h : PacketMove s p t) :
    t.params = s.params ∧ t.env.inputs = s.env.inputs := by
  cases h with
  | command arg cmd =>
    obtain ⟨hparams, hinputs, -⟩ := runCommand_outside arg cmd s
    exact ⟨hparams, hinputs⟩
  | request header payload q =>
    obtain ⟨-, -, hparams, hinputs, -⟩ := busRequest_frame q s
    exact ⟨hparams, hinputs⟩
  | reserved header payload =>
    obtain ⟨hparams, -, -, -, -, hinputs⟩ := reservedBusRequest_frame header s
    exact ⟨hparams, hinputs⟩
  | control => exact ⟨rfl, rfl⟩

theorem writeRegister_params_inputs (offset : Nat) (v : Word) (s : State) :
    (writeRegister offset v s).params = s.params ∧ (writeRegister offset v s).env.inputs = s.env.inputs := by
  unfold writeRegister writeCmd
  split_ifs <;> exact ⟨rfl, rfl⟩

theorem runInput_params_inputs {s t : State} {e : Input} (h : runInput e s = .next t) :
    t.params = s.params ∧ t.env.inputs = s.env.inputs := by
  cases e with
  | packet p => exact (runPacket_move h).params_inputs
  | hostWrite bytes offset v => exact hostAccess_next h ▸ writeRegister_params_inputs offset v s
  | hostRead bytes offset => exact hostAccess_next h ▸ ⟨rfl, rfl⟩
  | sequencer => cases h; exact ⟨(seqStep_outside s).params, (seqStep_outside s).inputs⟩
  | blockReset => cases h; exact ⟨rfl, rfl⟩
  | powerUp => cases h; exact ⟨rfl, rfl⟩

/-- Settles O56: `step` takes the first event off the list, and no event writes the parameters or the list. -/
theorem stepKeepsTheParameters : Obligations.StepKeepsTheParameters := by
  intro s t h
  rcases step_cases h with ⟨hin, rfl⟩ | ⟨e, rest, hin, he⟩
  · rw [hin]
    exact ⟨(seqStep_outside s).params, (seqStep_outside s).inputs.trans hin⟩
  · rw [hin]
    exact runInput_params_inputs he

/-! Events that give a next state (R82, R97, R220). -/

theorem hostAccess_aligned {offset : Nat} (answer : State) (halign : offset % 4 = 0) (hlt : offset < windowBytes) :
    hostAccess 4 offset answer = .next answer := by
  have hword : alignedWord 4 offset = true := by rw [alignedWord, decide_eq_true halign]; rfl
  rw [hostAccess, if_neg (by omega), if_pos hword]

/-- A header that is not reserved, with the payload it calls for, decodes (R97). -/
theorem decodeB_isOk {q : Word} {payload : List Byte} (hres : headerReserved q = false)
    (hlen : payload.length = payloadBytes q) : ∃ i, decodeB q payload = .ok i := by
  simp only [headerReserved, Bool.or_eq_false_iff, decide_eq_false_iff_not, not_not] at hres
  obtain ⟨hrsv, hkind⟩ := hres
  unfold decodeB
  rw [if_neg (not_not_intro hrsv), if_neg hkind, if_neg (not_not_intro hlen)]
  split_ifs <;> exact ⟨_, rfl⟩

theorem runPacket_next {p : Packet} (s : State) (h : admitted (.packet p)) : ∃ t, runPacket p s = .next t := by
  unfold runPacket
  split
  next i _ => exact exec_next i s
  next e he =>
    cases p with
    | h arg cmd => exact ⟨_, rfl⟩
    | b q payload =>
      cases hres : headerReserved q
      · obtain ⟨i, hi⟩ := decodeB_isOk hres (h.resolve_left (by simp [hres]))
        cases hi.symm.trans he
      · exact ⟨_, if_pos hres⟩
    | s w => exact ⟨_, rfl⟩

theorem runInput_next {e : Input} (s : State) (h : admitted e) : ∃ t, runInput e s = .next t := by
  cases e with
  | packet p => exact runPacket_next s h
  | hostWrite bytes offset v =>
    obtain ⟨rfl, halign, hlt⟩ := h
    exact ⟨_, hostAccess_aligned _ halign hlt⟩
  | hostRead bytes offset =>
    obtain ⟨rfl, halign, hlt⟩ := h
    exact ⟨_, hostAccess_aligned _ halign hlt⟩
  | sequencer => exact ⟨_, rfl⟩
  | blockReset => exact ⟨_, rfl⟩
  | powerUp => exact ⟨_, rfl⟩

/-- Settles O57: an admitted access reaches its register, and an admitted packet decodes, or is a word the block answers. -/
theorem admittedEventsNeverStop : Obligations.AdmittedEventsNeverStop := by
  intro s h
  unfold step
  split
  next => exact ⟨_, rfl⟩
  next e rest hin => exact runInput_next _ (h e rest hin)

/-! Where RESULT and RAW change (R27, R28). -/

/-- A command has just come to its `finish`. -/
def Finished (t : State) : Prop :=
  t.host.status.done = true ∧ t.host.status.busy = false ∧ t.seqr.seq = .idle

/-- RESULT and RAW are as before. -/
def SameResult (s t : State) : Prop := t.host.result = s.host.result ∧ t.host.raw = s.host.raw

theorem SeqMove.sameResult_or_finished {s t : State} (h : SeqMove s t) :
    SameResult s t ∨ (s.seqr.seq ≠ .idle ∧ Finished t) := by
  cases h with
  | finishes ok err v c hseq => exact .inr ⟨hseq, rfl, rfl, rfl⟩
  | exhausts label v c hlabel hseq => exact .inr ⟨hseq ▸ hlabel.ne_idle _, rfl, rfl, rfl⟩
  | _ => exact .inl ⟨rfl, rfl⟩

theorem runSeq_sameResult_or_finished (n : Nat) (s : State) : SameResult s (runSeq n s) ∨ Finished (runSeq n s) := by
  refine runSeq_induct (P := fun t => SameResult s t ∨ Finished t) (fun t ht => ?_) n s (.inl ⟨rfl, rfl⟩)
  rcases ht with ⟨hresult, hraw⟩ | hfin
  · exact (seqStep_move t).sameResult_or_finished.imp (fun h => ⟨h.1.trans hresult, h.2.trans hraw⟩) And.right
  · exact .inr (by rwa [seqStep_idle hfin.2.2])

theorem runCommand_sameResult_or_finished (arg cmd : Word) (s : State) :
    SameResult s (runCommand arg cmd s) ∨ (s.host.status.busy = false ∧ Finished (runCommand arg cmd s)) := by
  cases hbusy : s.host.status.busy
  · rw [runCommand_idle arg cmd hbusy]
    exact (runSeq_sameResult_or_finished longestCommand (issued arg cmd s)).imp id fun h => ⟨rfl, h⟩
  · rw [runCommand_busy arg cmd hbusy]
    exact .inl ⟨rfl, rfl⟩

theorem PacketMove.sameResult_or_finished {s t : State} {p : Packet} (h : PacketMove s p t) :
    SameResult s t ∨ ((∃ arg cmd, p = .h arg cmd) ∧ s.host.status.busy = false ∧ Finished t) := by
  cases h with
  | command arg cmd =>
    exact (runCommand_sameResult_or_finished arg cmd s).imp id fun h => ⟨⟨arg, cmd, rfl⟩, h⟩
  | request header payload q =>
    obtain ⟨hhost, -⟩ := busRequest_frame q s
    exact .inl ⟨by rw [hhost], by rw [hhost]⟩
  | reserved header payload =>
    obtain ⟨-, -, hhost, -⟩ := reservedBusRequest_frame header s
    exact .inl ⟨by rw [hhost], by rw [hhost]⟩
  | control => exact .inl ⟨rfl, rfl⟩

theorem writeRegister_sameResult (offset : Nat) (v : Word) (s : State) : SameResult s (writeRegister offset v s) := by
  unfold writeRegister writeCmd
  split_ifs <;> exact ⟨rfl, rfl⟩

/-- Settles O58: of the events, only a reset, a sequencer's `finish` and a command packet write RESULT or RAW. -/
theorem resultChangesOnlyAtFinish : Obligations.ResultChangesOnlyAtFinish := by
  intro s t h hchange
  have hsame {u : State} (hu : SameResult u t) (hhost : u.host = s.host) : False := by
    obtain ⟨hresult, hraw⟩ := hu
    rw [hhost] at hresult hraw
    exact hchange.elim (· hresult) (· hraw)
  rcases step_cases h with ⟨hin, rfl⟩ | ⟨e, rest, hin, he⟩
  · obtain hu | ⟨hseq, hfin⟩ := (seqStep_move s).sameResult_or_finished
    · exact (hsame hu rfl).elim
    · exact .inr (.inr ⟨.inl ⟨.inl hin, hseq⟩, hfin⟩)
  · cases e with
    | packet p =>
      obtain hu | ⟨⟨arg, cmd, rfl⟩, hbusy, hfin⟩ := (runPacket_move he).sameResult_or_finished
      · exact (hsame hu rfl).elim
      · exact .inr (.inr ⟨.inr ⟨arg, cmd, rest, hin, hbusy⟩, hfin⟩)
    | hostWrite bytes offset v =>
      exact (hsame (hostAccess_next he ▸ writeRegister_sameResult offset v _) rfl).elim
    | hostRead bytes offset => exact (hsame (u := withInputs rest s) (hostAccess_next he ▸ ⟨rfl, rfl⟩) rfl).elim
    | sequencer =>
      cases he
      obtain hu | ⟨hseq, hfin⟩ := (seqStep_move (withInputs rest s)).sameResult_or_finished
      · exact (hsame hu rfl).elim
      · exact .inr (.inr ⟨.inl ⟨.inr ⟨rest, hin⟩, hseq⟩, hfin⟩)
    | blockReset => exact .inl ⟨rest, hin⟩
    | powerUp => exact .inr (.inl ⟨rest, hin⟩)

/-! Control words (log 14). -/

/-- The same state with another device agent on the bus. -/
def withDeviceKind (d : DeviceKind) (s : State) : State := { s with params := { s.params with device := d } }

/-- A control word's meaning does not read which device is on the bus. -/
theorem runPacket_control (w : Word) (s : State) :
    ∃ t, runPacket (.s w) s = .next t ∧
      ∀ d, runPacket (.s w) (withDeviceKind d s) = .next (withDeviceKind d t) := by
  unfold runPacket
  split
  next i hi =>
    have hw := (encode_of_decodeS hi).1
    cases i with
    | simReset index => exact ⟨_, rfl, fun _ => rfl⟩
    | simPeek index => exact ⟨_, rfl, fun _ => rfl⟩
    | simGetBusy index => exact ⟨_, rfl, fun _ => rfl⟩
    | simGetCount index => exact ⟨_, rfl, fun _ => rfl⟩
    | _ => cases hw
  next => exact ⟨_, rfl, fun _ => rfl⟩

/-- Settles O59: no control word reads or writes the parameter that names the device. -/
theorem controlWordsAnswerOnAnyDevice : Obligations.ControlWordsAnswerOnAnyDevice := by
  intro s d w rest hin
  obtain ⟨t, ht, hany⟩ := runPacket_control w (withInputs rest s)
  have hparams : t.params = s.params := (runPacket_move ht).params_inputs.1
  have hother : withDeviceKind d t = { t with params := { s.params with device := d } } := by
    rw [withDeviceKind, hparams]
  exact ⟨t, (step_of_packet hin).trans ht,
    (step_of_packet (s := withDeviceKind d s) hin).trans ((hany d).trans (congrArg _ hother))⟩

/-! The host register window (R22, R82, R83). -/

theorem step_of_aligned_hostRead {s : State} {offset : Nat} {rest : List Input}
    (hin : s.env.inputs = .hostRead 4 offset :: rest) (hlt : offset < 32) (halign : offset % 4 = 0) :
    step s = .next (answerHost (readRegister s.host offset) (withInputs rest s)) := by
  simp only [step, hin, runInput, hostRead]
  exact hostAccess_aligned _ halign hlt

theorem writeRegister_readOnly {offset : Nat} (v : Word) (s : State) (h : 8 ≤ offset) : writeRegister offset v s = s := by
  rw [writeRegister, if_neg (by omega), if_neg (by omega)]

/-- Settles O15: offset 0 is CMD_ARG, and from 8 on no offset takes a write. -/
theorem otherHostWrites : Obligations.OtherHostWrites := by
  intro s offset v rest hin
  refine ⟨?_, fun hge hlt halign => ?_⟩
  · rintro rfl
    exact step_of_aligned_hostWrite hin (by decide) (by decide)
  · rw [step_of_aligned_hostWrite hin hlt halign, writeRegister_readOnly v _ hge]
    rfl

theorem errNumber_eq (e : ErrCause) : errNumber e = e.code.toNat := by cases e <;> rfl

theorem busNumber_eq (b : BusStatus) : busNumber b = b.code.toNat := by cases b <;> rfl

/-- STATUS as a number (R25). -/
theorem Status.word_toNat (f : Status) :
    f.word.toNat = f.busy.toNat + 2 * f.done.toNat + 4 * f.ok.toNat + 8 * f.ovr.toNat + 16 * f.pexh.toNat
      + 256 * errNumber f.err + 4096 * busNumber f.busst := by
  rw [errNumber_eq, busNumber_eq]
  unfold Status.word
  simp only [append_toNat, BitVec.toNat_ofBool]
  simp
  omega

theorem readRegister_reserved (r : HostRegs) {offset : Nat} (h : 0x18 ≤ offset) : readRegister r offset = 0#32 := by
  rw [readRegister, if_neg (by omega), if_neg (by omega), if_neg (by omega), if_neg (by omega), if_neg (by omega),
    if_neg (by omega)]

/-- Settles O16: `readRegister` is the table of R22, and STATUS, RAW and POLLS are their fields put together. -/
theorem hostReadReturnsTheRegister : Obligations.HostReadReturnsTheRegister := by
  intro s offset rest hin hlt halign
  refine ⟨readRegister s.host offset, step_of_aligned_hostRead hin hlt halign, ?_, ?_, ?_, ?_, ?_, ?_, ?_⟩
  · rintro rfl; rfl
  · rintro rfl; rfl
  · rintro rfl; exact Status.word_toNat _
  · rintro rfl; rfl
  · rintro rfl; exact (append_toNat 0#16 s.host.raw).trans (by simp)
  · rintro rfl; exact (append_toNat 0#24 s.host.polls).trans (by simp)
  · exact readRegister_reserved s.host

theorem hostAccess_misaligned {bytes offset : Nat} (answer : State) (hlt : offset < 32)
    (h : bytes ≠ 4 ∨ offset % 4 ≠ 0) : hostAccess bytes offset answer = .refused (.notAnAlignedWord bytes offset) := by
  have hword : alignedWord bytes offset = false := by
    rcases h with h | h <;> simp [alignedWord, h]
  rw [hostAccess, if_neg (by rw [windowBytes_eq]; omega), hword]
  rfl

theorem hostAccess_outside {offset : Nat} (bytes : Nat) (answer : State) (h : 32 ≤ offset) :
    hostAccess bytes offset answer = .fault (.noSuchRegister offset) := if_pos h

/-- Settles O17: the window's bound is checked first, then the width and the alignment. -/
theorem onlyAlignedWordsAreAdmitted : Obligations.OnlyAlignedWordsAreAdmitted := by
  intro s bytes offset v rest e hin he
  obtain ⟨answer, hstep⟩ : ∃ answer, step s = hostAccess bytes offset answer := by
    rcases he with rfl | rfl <;> simp only [step, hin] <;> exact ⟨_, rfl⟩
  rw [hstep]
  exact ⟨hostAccess_misaligned answer, hostAccess_outside bytes answer⟩

/-- A write to another offset than CMD reaches neither the sequencer nor the device. -/
theorem writeRegister_of_ne_cmd {offset : Nat} (v : Word) (s : State) (h : offset ≠ 4) :
    (writeRegister offset v s).seqr = s.seqr ∧ (writeRegister offset v s).sim = s.sim := by
  unfold writeRegister
  rw [if_neg h]
  split <;> exact ⟨rfl, rfl⟩

/-- Settles O8: with SEQ at IDLE the sequencer's step is none, and only a write of CMD writes SEQ. -/
theorem nothingHappensWithoutACommand : Obligations.NothingHappensWithoutACommand := by
  intro s hidle
  refine ⟨fun hin => ?_, fun rest hin => ?_, fun offset v rest hin hlt halign hne => ?_,
    fun offset rest hin hlt halign => ?_⟩
  · simp only [step, hin, seqStep_idle hidle]
  · simp only [step, hin, runInput]
    rw [seqStep_idle (s := withInputs rest s) hidle]
  · exact ⟨_, step_of_aligned_hostWrite hin hlt halign, writeRegister_of_ne_cmd v _ hne⟩
  · exact ⟨_, step_of_aligned_hostRead hin hlt halign, rfl, rfl, rfl⟩

/-! Reset (R250, R251, R253). -/

theorem readRegister_cleared (offset : Nat) : readRegister HostRegs.cleared offset = 0#32 := by
  unfold readRegister
  split_ifs <;> rfl

/-- Settles O13: a reset writes the cleared registers and sequencer, power-up also the initial simulator, whose memory lists
no byte. -/
theorem resetAndPowerUpStates : Obligations.ResetAndPowerUpStates := by
  refine ⟨fun s rest hin => ⟨blockReset (withInputs rest s), ?_, readRegister_cleared, rfl, rfl, rfl, rfl⟩,
    fun s rest hin =>
      ⟨powerUp (withInputs rest s), ?_, readRegister_cleared, rfl, Memory.read_nil, rfl, rfl, rfl, rfl, rfl⟩,
    readRegister_cleared, rfl, Memory.read_nil, rfl, rfl, rfl, rfl, rfl, rfl, rfl⟩ <;>
    simp only [step, hin, runInput]

/-! A command packet: dropped, or its atomic steps (R91, R140, R157). -/

theorem step_of_command_packet {s : State} {arg cmd : Word} {rest : List Input}
    (hin : s.env.inputs = .packet (.h arg cmd) :: rest) : step s = .next (runCommand arg cmd (withInputs rest s)) :=
  (step_of_packet hin).trans (runPacket_command ..)

/-- Settles O10: the packet is its two host writes, and the CMD write is dropped. -/
theorem commandWhileBusyIsDropped : Obligations.CommandWhileBusyIsDropped := by
  intro i s arg cmd hi hbusy
  rw [(exec_of_encode_h hi).2, runCommand_busy _ _ hbusy]
  rfl

theorem run_succ_of_step {s t : State} (n : Nat) (h : step s = .next t) :
    Host.Core.run core (n + 1) s = Host.Core.run core n t := by
  have hcore : core.step s = .next t := h
  simp only [Host.Core.run, hcore]

/-- With no event pending, the machine runs the sequencer. -/
theorem run_of_no_inputs (n : Nat) {s : State} (hin : s.env.inputs = []) :
    Host.Core.run core n s = .next (runSeq n s) := by
  induction n generalizing s with
  | zero => rfl
  | succ n ih =>
    have hstep : step s = .next (seqStep s) := by simp only [step, hin]
    rw [run_succ_of_step n hstep, ih ((seqStep_outside s).inputs.trans hin)]
    by_cases hseq : s.seqr.seq = .idle
    · rw [seqStep_idle hseq, runSeq_idle _ hseq, runSeq_idle _ hseq]
    · rw [runSeq_succ n hseq]

/-- Settles O12: the two host writes issue the command, and with no event left the machine runs the sequencer. -/
theorem commandPacketIsItsAtomicSteps : Obligations.CommandPacketIsItsAtomicSteps := by
  intro s arg cmd hbusy
  have harg : step (withInputs [.hostWrite 4 0 arg, .hostWrite 4 4 cmd] s)
      = .next (writeCmdArg arg (withInputs [.hostWrite 4 4 cmd] s)) :=
    step_of_aligned_hostWrite (offset := 0) rfl (by decide) (by decide)
  have hcmd : step (writeCmdArg arg (withInputs [.hostWrite 4 4 cmd] s)) = .next (issued arg cmd (withInputs [] s)) :=
    (step_of_aligned_hostWrite (offset := 4) rfl (by decide) (by decide)).trans (congrArg _ (writeCmd_idle cmd hbusy))
  rw [Nat.add_comm 2, run_succ_of_step _ harg, run_succ_of_step _ hcmd, run_of_no_inputs _ rfl,
    step_of_command_packet rfl]
  exact congrArg _ (runCommand_idle (s := withInputs [] s) arg cmd hbusy).symm

end Sys2Proof.Machine

namespace Sys2Proof.Machine

/-! Commands that finish in their first step, with no bus traffic (R120, R121, R142, R143, R151). -/

theorem issued_seq_ne_idle (arg cmd : Word) (s : State) : (issued arg cmd s).seqr.seq ≠ .idle :=
  startOf_decodeH_ne_idle arg cmd

theorem runCommand_of_finish {s : State} {arg cmd : Word} {ok : Bool} {err : ErrCause} {v : Word} {c : Half}
    (hbusy : s.host.status.busy = false) (hstep : seqStep (issued arg cmd s) = finish ok err v c (issued arg cmd s)) :
    runCommand arg cmd s = finish ok err v c (issued arg cmd s) := by
  rw [runCommand_idle arg cmd hbusy, ← hstep]
  exact runSeq_one 201 (issued_seq_ne_idle arg cmd s) (by rw [hstep]; rfl)

theorem finish_issued (addr : Half) (op : BitVec 4) (arg : Word) (ok : Bool) (err : ErrCause) (v : Word) (c : Half)
    (s : State) :
    finish ok err v c (issued arg (commandWord addr op) s) = localFinish s op addr arg ok err v c := by
  simp [finish, issued, accept, writeCmdArg, localFinish, finishedState, doneStatus, Status.finished, Status.accepted]

theorem runCommand_local {s : State} {addr : Half} {op : BitVec 4} {arg : Word} {ok : Bool} {err : ErrCause} {v : Word}
    {c : Half} (hbusy : s.host.status.busy = false)
    (hstep : seqStep (issued arg (commandWord addr op) s) = finish ok err v c (issued arg (commandWord addr op) s)) :
    runCommand arg (commandWord addr op) s = localFinish s op addr arg ok err v c :=
  (runCommand_of_finish hbusy hstep).trans (finish_issued ..)

@[simp] theorem addrOperand_issued (addr : Half) (op : BitVec 4) (arg : Word) (s : State) :
    addrOperand (issued arg (commandWord addr op) s) = addr := addrField_commandWord addr op

@[simp] theorem tempOperand_issued (cmd arg : Word) (s : State) : tempOperand (issued arg cmd s) = arg := rfl

theorem codeOperand_issued (cmd arg : Word) (s : State) :
    codeOperand (issued arg cmd s) = BitVec.ofNat 16 arg.toNat := by
  apply BitVec.eq_of_toNat_eq
  show (arg.extractLsb' 0 16).toNat = _
  simp [BitVec.extractLsb'_toNat]

/-- Settles O18: the step of ENCODE is its `finish`, with the code of the latched operand. -/
theorem encodeFinishesWithTheCode : Obligations.EncodeFinishesWithTheCode := by
  intro s addr arg hbusy
  have hseq : (issued arg (commandWord addr 1#4) s).seqr.seq = .encodeTemp := by
    simp [issued, decodeH_commandWord_1, startOf]
  exact congrArg _ (runCommand_local hbusy (by simp only [seqStep, hseq]; rfl))

/-- Settles O19: the step of DECODE is its `finish`, with the value of the low half of the latched operand. -/
theorem decodeFinishesWithTheTemperature : Obligations.DecodeFinishesWithTheTemperature := by
  intro s addr arg hbusy
  have hseq : (issued arg (commandWord addr 2#4) s).seqr.seq = .decodeCode := by
    simp [issued, decodeH_commandWord_2, startOf]
  exact congrArg _ (runCommand_local hbusy (by simp only [seqStep, hseq, decodeStep, codeOperand_issued]))

/-- Settles O26: the sentinel is the value of the code of -999, and DECODE returns the value of its code. -/
theorem sentinelIsDecodable : Obligations.SentinelIsDecodable := by
  have hdec : dec 0xC190#16 = Config.sentinel := by decide
  refine ⟨hdec, ?_, fun s addr hbusy => ⟨_, decodeFinishesWithTheTemperature s addr _ hbusy, hdec, rfl⟩⟩
  have hcode : (0xC190#16).toInt = -15984 := by decide
  rw [← hdec, real_dec, hcode]
  norm_num

/-- Settles O25: a 16-bit code is the truncated product less a multiple of 65536, which is `16 * 4096`. -/
theorem wrapOutsideTheDomain : Obligations.WrapOutsideTheDomain := by
  intro f hf hout
  have hlo := BitVec.le_toInt (enc f)
  have hhi := BitVec.toInt_lt (x := enc f)
  obtain ⟨k, hk⟩ : ∃ k, (enc f).toInt = trunc (16 * real f) - 65536 * k := by
    refine ⟨Int.bdiv (trunc (16 * real f)) 65536, ?_⟩
    have := Int.bmod_add_bdiv (trunc (16 * real f)) 65536
    rw [enc_of_finite hf, BitVec.toInt_ofInt, show 2 ^ 16 = 65536 from rfl]
    omega
  refine ⟨k, by omega, ?_⟩
  rw [real_dec, hk]
  push_cast
  ring

theorem startOf_decodeH_illegal {arg cmd : Word}
    (h : cmd.toNat / 16 % 4096 ≠ 0 ∨ cmd.toNat % 16 = 0 ∨ 6 ≤ cmd.toNat % 16) :
    startOf (decodeH arg cmd) = .illegal := by
  rw [startOf_decodeH]
  by_cases hrsv : cmd.toNat / 16 % 4096 ≠ 0
  · exact if_pos hrsv
  · rw [if_neg hrsv, if_neg (by omega), if_neg (by omega), if_neg (by omega), if_neg (by omega), if_neg (by omega)]

theorem runCommand_illegal {s : State} {arg cmd : Word} (hbusy : s.host.status.busy = false)
    (h : startOf (decodeH arg cmd) = .illegal) :
    runCommand arg cmd s = finish false .illegal 0#32 0#16 (issued arg cmd s) := by
  have hseq : (issued arg cmd s).seqr.seq = .illegal := h
  exact runCommand_of_finish hbusy (by simp only [seqStep, hseq, illegalStep])

/-- Settles O9: an ILLEGAL word starts at the label of its `finish`. -/
theorem illegalCommandFinishesWithIllegal : Obligations.IllegalCommandFinishesWithIllegal := by
  intro s arg cmd rest hin hbusy hillegal
  rw [step_of_command_packet hin, runCommand_illegal (s := withInputs rest s) hbusy (startOf_decodeH_illegal hillegal),
    ← opField_eq, ← addrField_eq]
  rfl

/-! Addresses the checks reject (R142, R143, R146). -/

theorem seqStep_issued_logData (a : Half) (f : Word) (s : State) :
    seqStep (issued f (commandWord a 3#4) s) = logDataStep (issued f (commandWord a 3#4) s) := by
  simp only [seqStep, issued_logData_seq]

theorem seqStep_issued_readData (a : Half) (arg : Word) (s : State) :
    seqStep (issued arg (commandWord a 4#4) s) = readDataStep (issued arg (commandWord a 4#4) s) := by
  simp only [seqStep, issued_readData_seq]

section
variable {s : State} {a : Half} (f : Word) (hbusy : s.host.status.busy = false)
include hbusy

theorem exec_logData_range (h : capOk a = false) :
    exec (.logData a f) s = .next (localFinish s 3#4 a f false .range 0#32 0#16) :=
  congrArg _ (runCommand_local hbusy (by rw [seqStep_issued_logData, logDataStep, addrOperand_issued, if_pos h]))

theorem exec_logData_page (h : capOk a = true) (h' : pageOk a = false) :
    exec (.logData a f) s = .next (localFinish s 3#4 a f false .page 0#32 0#16) :=
  congrArg _ (runCommand_local hbusy
    (by rw [seqStep_issued_logData, logDataStep, addrOperand_issued, if_neg (by simp [h]), if_pos h']))

/-- READ_DATA past the last slot. -/
theorem exec_readData_beyond (h : ¬ a.toNat ≤ 32766) :
    exec (.readData a f) s = .next (localFinish s 4#4 a f false .range Config.sentinel 0#16) :=
  have hread : readOk a = false := by rw [← Bool.not_eq_true, readOk_iff]; exact h
  congrArg _ (runCommand_local hbusy (by rw [seqStep_issued_readData, readDataStep, addrOperand_issued, if_pos hread]))

end

/-- LOG_DATA at an address one of its checks rejects: which one depends on the address alone. -/
theorem exec_logData_rejected {a : Half} (f : Word) (h : ¬ acceptedAddress a) :
    ∃ err, ∀ s : State, s.host.status.busy = false →
      exec (.logData a f) s = .next (localFinish s 3#4 a f false err 0#32 0#16) := by
  rw [← capOk_and_pageOk_iff] at h
  cases hcap : capOk a
  · exact ⟨.range, fun s hbusy => exec_logData_range f hbusy hcap⟩
  · exact ⟨.page, fun s hbusy => exec_logData_page f hbusy hcap (by simpa [hcap] using h)⟩

/-- Settles O28: each check is a bound on the address, and its failure is the command's first step. -/
theorem badAddressesAreRejectedLocally : Obligations.BadAddressesAreRejectedLocally := by
  intro s a f hbusy
  have hfalse {b : Bool} {p : Prop} (h : b = true ↔ p) (hp : ¬ p) : b = false := by simpa [hp] using h
  refine ⟨fun ha => ?_, fun ha hpage => ?_, fun ha => ?_⟩
  · exact exec_logData_range f hbusy (hfalse (capOk_iff a) (by omega))
  · exact exec_logData_page f hbusy ((capOk_iff a).mpr (by omega)) (hfalse (pageOk_iff a) (by omega))
  · exact exec_readData_beyond f hbusy (by omega)

/-! Commands on a device that answers: the state after their `finish`. -/

/-- The transactions of a poll loop answered with these statuses. -/
def probeTraffic (p : Params) (l : List BusStatus) : List Transaction := l.map fun st => ⟨probeRequest p.devAddr, st⟩

/-- STATUS after a poll loop answered with these statuses, and the `finish` that follows it. -/
def polledStatus (l : List BusStatus) : Status :=
  doneStatus true (decide (l.getLast? ≠ some .ok)) .noError (l.getLast?.getD .ok)

/-- The state after a poll loop, whose probes left the device `d`, and the `finish` that follows it. -/
theorem finish_polled (v : Word) (c : Half) (l : List BusStatus) (d : Device) (s : State) :
    finish true .noError v c (markExhausted l (afterProbes 0 l d s))
      = { withDevice d s with
          host := { s.host with
            status := { s.host.status with
              busy := false, done := true, ok := true, err := .noError
              pexh := s.host.status.pexh || decide (l.getLast? ≠ some .ok)
              busst := l.getLast?.getD s.host.status.busst }
            result := v, raw := c, polls := s.host.polls + BitVec.ofNat 8 l.length }
          seqr := { s.seqr with seq := .idle, att := l.length }
          env := { (withDevice d s).env with traffic := s.env.traffic ++ probeTraffic s.params l } } := by
  unfold markExhausted
  split
  next hlast => simp [finish, afterProbes, Status.finished, hlast, probeTraffic, probe, probeRequest]
  next hlast => simp [finish, setExhausted, afterProbes, Status.finished, hlast, probeTraffic, probe, probeRequest]

theorem waitEnding_polled (a : Half) (arg : Word) (l : List BusStatus) (d : Device) (s : State) :
    waitEnding (markExhausted l (afterProbes 0 l d (issued arg (commandWord a 5#4) s)))
      = finishedState (withDevice d s) 5#4 a arg (polledStatus l) 0#32 0#16 l.length l.length s.seqr.tx s.seqr.rx
          (probeTraffic s.params l) := by
  rw [waitEnding, finish_polled]
  simp [issued, accept, writeCmdArg, finishedState, withDevice, polledStatus, doneStatus, Status.accepted]

/-- The code LOG_DATA finishes with is that of the latched temperature, which no probe writes. -/
theorem tempOperand_polled (a : Half) (f : Word) (r : BusResponse) (l : List BusStatus) (d1 d2 : Device) (s : State) :
    tempOperand (markExhausted l (afterProbes 0 l d2 (afterDataWrite a f r d1 s))) = f := by
  unfold markExhausted
  split <;> rfl

theorem logEnding_polled {r : BusResponse} (hr : r.status = .ok) (a : Half) (f : Word) (l : List BusStatus)
    (d1 d2 : Device) (s : State) :
    logEnding (markExhausted l (afterProbes 0 l d2 (afterDataWrite a f r d1 s)))
      = finishedState (withDevice d2 s) 3#4 a f (polledStatus l) 1#32 (enc f) l.length l.length (logPayload a (enc f))
          s.seqr.rx (⟨dataWriteRequest s.params.devAddr a (enc f), .ok⟩ :: probeTraffic s.params l) := by
  rw [logEnding, tempOperand_polled, finish_polled]
  simp [afterDataWrite, recordTransfer, hr, loadTx, issued, accept, writeCmdArg, finishedState, withDevice, polledStatus,
    doneStatus, Status.accepted, dataWriteRequest]

theorem logFailStep_answered (a : Half) (f : Word) (r : BusResponse) (d : Device) (s : State) :
    logFailStep (afterDataWrite a f r d s)
      = finishedState (withDevice d s) 3#4 a f (doneStatus false false .bus r.status) 0#32 (enc f) 0 s.seqr.att
          (logPayload a (enc f)) s.seqr.rx [⟨dataWriteRequest s.params.devAddr a (enc f), r.status⟩] := by
  simp [logFailStep, finish, afterDataWrite, recordTransfer, loadTx, issued, accept, writeCmdArg, finishedState,
    withDevice, doneStatus, Status.finished, Status.accepted, dataWriteRequest, tempOperand]

theorem readDoneStep_answered {r : BusResponse} {x y : Byte} (hr : r = ⟨.ok, [x, y]⟩) (a : Half) (arg : Word)
    (d : Device) (s : State) :
    readDoneStep (recordTransfer (readBackRequest s.params.devAddr a) r
        (withDevice d (issued arg (commandWord a 4#4) s)))
      = finishedState (withDevice d s) 4#4 a arg (doneStatus true false .noError .ok) (dec (joinBytes x y))
          (joinBytes x y) 0 s.seqr.att s.seqr.tx ⟨x, y⟩ [⟨readBackRequest s.params.devAddr a, .ok⟩] := by
  subst hr
  simp [readDoneStep, finish, recordTransfer, readBackRequest, RxBuffer.store, rxCode, issued, accept, writeCmdArg,
    finishedState, withDevice, doneStatus, Status.finished, Status.accepted]

theorem readFailStep_answered {r : BusResponse} (hr : r.status ≠ .ok) (a : Half) (arg : Word) (d : Device) (s : State) :
    readFailStep (recordTransfer (readBackRequest s.params.devAddr a) r
        (withDevice d (issued arg (commandWord a 4#4) s)))
      = finishedState (withDevice d s) 4#4 a arg (doneStatus false false .bus r.status) Config.sentinel 0#16 0
          s.seqr.att s.seqr.tx s.seqr.rx [⟨readBackRequest s.params.devAddr a, r.status⟩] := by
  simp [readFailStep, finish, recordTransfer, hr, issued, accept, writeCmdArg, finishedState, withDevice, doneStatus,
    Status.finished, Status.accepted]

/-- A device that gave an answer is not silent. -/
theorem ne_silent_of_answer {p : Params} {q : BusRequest} {d d' : Device} {r : BusResponse}
    (h : answerOf p q d = some (r, d')) : p.device ≠ .silent := by
  intro hdev
  rw [answerOf_silent d q hdev] at h
  cases h

section
variable {s : State} {a : Half} {f arg : Word} {r : BusResponse} {d : Device} (hbusy : s.host.status.busy = false)
include hbusy

/-- WAIT_COMPLETE: the poll loop's trace gives everything it leaves. -/
theorem exec_waitComplete_answered (addr : Half) (arg : Word) (hdev : s.params.device ≠ .silent)
    {l : List BusStatus} (htrace : pollTrace s.params Config.maxAttempts (deviceOf s) = (l, d)) :
    exec (.waitComplete addr arg) s
      = .next (finishedState (withDevice d s) 5#4 addr arg (polledStatus l) 0#32 0#16 l.length l.length s.seqr.tx
          s.seqr.rx (probeTraffic s.params l)) := by
  refine congrArg Host.Outcome.next ((runCommand_waitComplete addr arg hbusy hdev).trans ?_)
  rw [htrace]
  exact waitEnding_polled ..

theorem exec_logData_failed (ha : acceptedAddress a)
    (hr : answerOf s.params (dataWriteRequest s.params.devAddr a (enc f)) (deviceOf s) = some (r, d))
    (hfail : r.status ≠ .ok) :
    exec (.logData a f) s
      = .next (finishedState (withDevice d s) 3#4 a f (doneStatus false false .bus r.status) 0#32 (enc f) 0 s.seqr.att
          (logPayload a (enc f)) s.seqr.rx [⟨dataWriteRequest s.params.devAddr a (enc f), r.status⟩]) := by
  obtain ⟨hcap, hpage⟩ := (capOk_and_pageOk_iff a).mpr ha
  exact congrArg _ ((runCommand_logData_failed hbusy hcap hpage hr hfail).trans (logFailStep_answered ..))

theorem exec_logData_written (ha : acceptedAddress a)
    (hr : answerOf s.params (dataWriteRequest s.params.devAddr a (enc f)) (deviceOf s) = some (r, d))
    (hok : r.status = .ok) {l : List BusStatus} {d' : Device}
    (htrace : pollTrace s.params Config.maxAttempts d = (l, d')) :
    exec (.logData a f) s
      = .next (finishedState (withDevice d' s) 3#4 a f (polledStatus l) 1#32 (enc f) l.length l.length
          (logPayload a (enc f)) s.seqr.rx
          (⟨dataWriteRequest s.params.devAddr a (enc f), .ok⟩ :: probeTraffic s.params l)) := by
  obtain ⟨hcap, hpage⟩ := (capOk_and_pageOk_iff a).mpr ha
  refine congrArg Host.Outcome.next
    ((runCommand_logData_written hbusy hcap hpage hr (ne_silent_of_answer hr) hok).trans ?_)
  rw [htrace]
  exact logEnding_polled hok ..

theorem exec_readData_ok {x y : Byte} (ha : a.toNat ≤ 32766)
    (hr : answerOf s.params (readBackRequest s.params.devAddr a) (deviceOf s) = some (⟨.ok, [x, y]⟩, d)) :
    exec (.readData a arg) s
      = .next (finishedState (withDevice d s) 4#4 a arg (doneStatus true false .noError .ok) (dec (joinBytes x y))
          (joinBytes x y) 0 s.seqr.att s.seqr.tx ⟨x, y⟩ [⟨readBackRequest s.params.devAddr a, .ok⟩]) := by
  refine congrArg Host.Outcome.next ((runCommand_readData hbusy ((readOk_iff a).mpr ha) hr).trans ?_)
  rw [if_pos rfl]
  exact readDoneStep_answered rfl ..

theorem exec_readData_failed (ha : a.toNat ≤ 32766)
    (hr : answerOf s.params (readBackRequest s.params.devAddr a) (deviceOf s) = some (r, d)) (hfail : r.status ≠ .ok) :
    exec (.readData a arg) s
      = .next (finishedState (withDevice d s) 4#4 a arg (doneStatus false false .bus r.status) Config.sentinel 0#16 0
          s.seqr.att s.seqr.tx s.seqr.rx [⟨readBackRequest s.params.devAddr a, r.status⟩]) := by
  refine congrArg Host.Outcome.next ((runCommand_readData hbusy ((readOk_iff a).mpr ha) hr).trans ?_)
  rw [if_neg hfail]
  exact readFailStep_answered hfail ..

end

/-- Settles O29: on any device the answer is the device's own, and LOG_DATA stops at it. -/
theorem logDataReportsAFailedWrite : Obligations.LogDataReportsAFailedWrite := by
  intro s s1 a f r hbusy ha hanswer hfail
  obtain ⟨d, hr, rfl⟩ := deviceAnswer_some hanswer
  exact exec_logData_failed hbusy ha hr hfail

/-- Settles O32: on any device the answer is the device's own, and its status decides between the two ends. -/
theorem readDataReportsTheAnswer : Obligations.ReadDataReportsTheAnswer := by
  intro s s1 a arg r hbusy ha hanswer
  obtain ⟨d, hr, rfl⟩ := deviceAnswer_some hanswer
  refine ⟨?_, fun hfail => exec_readData_failed hbusy ha hr hfail⟩
  rintro x y rfl
  exact exec_readData_ok hbusy ha hr

/-! What a poll loop's trace leaves in the registers (R150, R154). -/

/-- The shape of a trace of at most 100 probes (R154): none but the last is Ok, and the last is, or there are 100. -/
structure PollOutcome (l : List BusStatus) : Prop where
  ne_nil : l ≠ []
  length_le : l.length ≤ 100
  not_ok : ∀ st ∈ l.dropLast, st ≠ .ok
  ends : l.getLast? = some .ok ∨ l.length = 100

theorem pollTrace_outcome {p : Params} {d d' : Device} {l : List BusStatus} (hdev : p.device ≠ .silent)
    (htrace : pollTrace p Config.maxAttempts d = (l, d')) : PollOutcome l := by
  obtain ⟨hne, hle, hnot, hends⟩ := pollTrace_shape p 99 d hdev
  have hl : (pollTrace p (99 + 1) d).1 = l := congrArg Prod.fst htrace
  rw [hl] at hne hle hnot hends
  exact ⟨hne, hle, hnot, hends⟩

namespace PollOutcome
variable {l : List BusStatus} (h : PollOutcome l)
include h

theorem polls_toNat : (BitVec.ofNat 8 l.length).toNat = l.length := by
  have := h.length_le
  rw [BitVec.toNat_ofNat]; omega

theorem length_pos : 1 ≤ l.length := List.length_pos_iff.mpr h.ne_nil

theorem getLast?_eq : l.getLast? = some (polledStatus l).busst := by
  have hlast := List.getLast?_eq_some_getLast h.ne_nil
  simp [polledStatus, doneStatus, hlast]

theorem pexh_iff : (polledStatus l).pexh = true ↔ (polledStatus l).busst ≠ .ok := by
  rw [polledStatus, doneStatus, decide_eq_true_iff, h.getLast?_eq]
  simp

theorem polls_of_pexh (hpexh : (polledStatus l).pexh = true) : BitVec.ofNat 8 l.length = 100#8 := by
  rw [h.ends.resolve_left (of_decide_eq_true hpexh)]

theorem traffic_last (p : Params) :
    (probeTraffic p l).getLast?.map Transaction.status = some (polledStatus l).busst := by
  rw [probeTraffic, List.getLast?_map, h.getLast?_eq]
  rfl

theorem isPollTraffic_probeTraffic (p : Params) :
    isPollTraffic p.devAddr (BitVec.ofNat 8 l.length).toNat (probeTraffic p l) := by
  rw [h.polls_toNat]
  refine ⟨h.length_pos, h.length_le, List.length_map .., ?_, ?_, ?_⟩
  · simp [probeTraffic]
  · rw [probeTraffic, ← List.map_dropLast]
    intro t ht
    obtain ⟨st, hst, rfl⟩ := List.mem_map.mp ht
    exact h.not_ok st hst
  · rw [probeTraffic, List.getLast?_map, Option.map_map]
    exact h.ends.imp (fun hlast => by rw [hlast]; rfl) id

end PollOutcome

/-- Settles O31: once the write is acknowledged, the state is that of the poll loop's trace with RESULT 1. -/
theorem logDataIsBestEffort : Obligations.LogDataIsBestEffort := by
  intro s s1 a f r hbusy ha hanswer hok
  obtain ⟨d, hr, rfl⟩ := deviceAnswer_some hanswer
  rcases htrace : pollTrace s.params Config.maxAttempts d with ⟨l, d'⟩
  have hpoll := pollTrace_outcome (ne_silent_of_answer hr) htrace
  exact ⟨_, exec_logData_written hbusy ha hr hok htrace, rfl, rfl, rfl, rfl, rfl, rfl,
    hpoll.length_pos.trans_eq hpoll.polls_toNat.symm, hpoll.polls_toNat.trans_le hpoll.length_le, hpoll.pexh_iff,
    hpoll.polls_of_pexh⟩

/-- Settles O35: the state is that of the poll loop's trace, with RESULT 0. -/
theorem waitCompleteAlwaysSucceeds : Obligations.WaitCompleteAlwaysSucceeds := by
  intro s addr arg hbusy hdev
  rcases htrace : pollTrace s.params Config.maxAttempts (deviceOf s) with ⟨l, d⟩
  have hpoll := pollTrace_outcome hdev htrace
  exact ⟨_, exec_waitComplete_answered hbusy addr arg hdev htrace, rfl, rfl, rfl, rfl, rfl, rfl,
    hpoll.length_pos.trans_eq hpoll.polls_toNat.symm, hpoll.polls_toNat.trans_le hpoll.length_le,
    hpoll.traffic_last _, hpoll.pexh_iff, hpoll.polls_of_pexh⟩

/-! The data of an Ok answer (R99). -/

theorem handleWrite_data (T : Nat) (tx : List Byte) (m : Simulator) : (handleWrite T tx m).1.data = [] := by
  rcases handleWrite_cases T tx m with ⟨_, e⟩ | ⟨_, _, e⟩ | ⟨_, _, e⟩ | ⟨_, _, _, e⟩ | ⟨_, _, _, e⟩ <;> rw [e] <;> rfl

theorem handleRead_data_length {T n : Nat} {m : Simulator} (hok : (handleRead T n m).1.status = .ok) :
    (handleRead T n m).1.data.length = n := by
  unfold handleRead idleRead at hok ⊢
  split_ifs at hok ⊢
  · cases hok
  · cases hok
  · exact Memory.readBytes_length ..

theorem onBus_data_length {T : Nat} {q : BusRequest} {m : Simulator} (hok : (onBus T q m).1.status = .ok) :
    (onBus T q m).1.data.length = askedBytes q := by
  unfold onBus askedBytes at *
  cases hkind : q.kind <;> simp only [hkind] at hok ⊢
  case write => rw [handleWrite_data]; rfl
  case read => exact handleRead_data_length hok
  case writeRead =>
    by_cases hwrite : (handleWrite T q.tx m).1.status = .ok
    · rw [handleWriteRead_of_ok hwrite] at hok ⊢
      exact handleRead_data_length hok
    · rw [handleWriteRead_of_not_ok hwrite] at hok
      exact absurd hok hwrite

theorem shapedAnswer_data_length {st : BusStatus} (fixed : List Byte) (n rxlen : Nat)
    (hok : (shapedAnswer st fixed n rxlen).status = .ok) : (shapedAnswer st fixed n rxlen).data.length = rxlen := by
  have hst : st = .ok := hok
  simp [shapedAnswer, hst, drawnData]

/-- An Ok answer has exactly the bytes the request asks for, whichever device gives it. -/
theorem answerOf_data_length {p : Params} {q : BusRequest} {d d' : Device} {r : BusResponse}
    (h : answerOf p q d = some (r, d')) (hok : r.status = .ok) : r.data.length = askedBytes q := by
  unfold answerOf at h
  split at h
  · cases h; exact onBus_data_length hok
  · split at h <;> cases h <;> exact shapedAnswer_data_length _ _ _ hok
  · cases h

/-- An Ok answer to a read-back is two bytes. -/
theorem readBack_answer {p : Params} {a : Half} {d d' : Device} {r : BusResponse}
    (h : answerOf p (readBackRequest p.devAddr a) d = some (r, d')) (hok : r.status = .ok) :
    ∃ x y, r = ⟨.ok, [x, y]⟩ := by
  obtain ⟨x, y, hdata⟩ := List.length_eq_two.mp (answerOf_data_length h hok)
  exact ⟨x, y, by rw [← hok, ← hdata]⟩

/-- Settles O36: the traffic is the one in the state each command leaves. -/
theorem busTrafficOfEachCommand : Obligations.BusTrafficOfEachCommand := by
  intro s addr arg hbusy hdev
  have hillegal : startOf (decodeH arg (commandWord addr 0#4)) = .illegal := by simp [decodeH, startOf]
  refine ⟨⟨_, encodeFinishesWithTheCode s addr arg hbusy, rfl⟩, ⟨_, decodeFinishesWithTheTemperature s addr arg hbusy, rfl⟩,
    ⟨_, congrArg Host.Outcome.next (runCommand_illegal hbusy hillegal), rfl⟩,
    ⟨_, exec_waitComplete_answered hbusy addr arg hdev rfl, (pollTrace_outcome hdev rfl).isPollTraffic_probeTraffic _⟩, ?_, ?_⟩
  · by_cases ha : addr.toNat ≤ 32766
    · obtain ⟨r, d, hr⟩ := answerOf_isSome (deviceOf s) (readBackRequest s.params.devAddr addr) hdev
      by_cases hok : r.status = .ok
      · obtain ⟨x, y, rfl⟩ := readBack_answer hr hok
        exact ⟨_, exec_readData_ok hbusy ha hr, fun hgt => absurd ha (by omega), fun _ => ⟨_, rfl⟩⟩
      · exact ⟨_, exec_readData_failed hbusy ha hr hok, fun hgt => absurd ha (by omega), fun _ => ⟨_, rfl⟩⟩
    · exact ⟨_, exec_readData_beyond arg hbusy ha, fun _ => rfl, fun h => absurd h ha⟩
  · by_cases ha : acceptedAddress addr
    · obtain ⟨r, d, hr⟩ := answerOf_isSome (deviceOf s) (dataWriteRequest s.params.devAddr addr (enc arg)) hdev
      by_cases hok : r.status = .ok
      · exact ⟨_, exec_logData_written hbusy ha hr hok rfl, absurd ha, fun _ => ⟨_, _, rfl, absurd rfl,
          fun _ => (pollTrace_outcome hdev rfl).isPollTraffic_probeTraffic _⟩⟩
      · exact ⟨_, exec_logData_failed hbusy ha hr hok, absurd ha, fun _ => ⟨_, _, rfl, fun _ => rfl, fun h => absurd h hok⟩⟩
    · obtain ⟨err, h⟩ := exec_logData_rejected arg ha
      exact ⟨_, h s hbusy, fun _ => rfl, fun h => absurd h ha⟩

end Sys2Proof.Machine

namespace Sys2Proof.Machine

/-! The busy counter of the simulator (R182, R195, R197). -/

/-- The counter law of R195, without the memory. -/
def Simulator.counts (T : Nat) (m : Simulator) : Prop :=
  (m.busyf = true → m.bcnt.toNat < T) ∧ (m.busyf = false → m.bcnt = 0#16)

theorem Simulator.good.counts {T : Nat} {m : Simulator} (h : m.good T) : m.counts T := by
  obtain ⟨-, -, hlt, hidle⟩ := h
  exact ⟨fun _ => hlt, hidle⟩

theorem busyRequestsLeft_idle {T : Nat} {m : Simulator} (h : m.busyf = false) : busyRequestsLeft T m = 0 := by
  simp [busyRequestsLeft, h]

theorem busyRequestsLeft_busy {T : Nat} {m : Simulator} (h : m.busyf = true) :
    busyRequestsLeft T m = T - m.bcnt.toNat := if_pos h

theorem afterRequests_of_lt {T n : Nat} {m : Simulator} (h : n < busyRequestsLeft T m) :
    afterRequests T n m = { m with bcnt := BitVec.ofNat 16 (m.bcnt.toNat + n) } := if_pos h

theorem afterRequests_of_le {T n : Nat} {m : Simulator} (h : busyRequestsLeft T m ≤ n) :
    afterRequests T n m = { m with busyf := false, bcnt := 0#16 } := if_neg (by omega)

/-- An idle simulator counts nothing. -/
theorem afterRequests_idle {T : Nat} {m : Simulator} (n : Nat) (hm : m.counts T) (h : m.busyf = false) :
    afterRequests T n m = m := by
  rw [afterRequests_of_le (by rw [busyRequestsLeft_idle h]; omega), ← hm.2 h, ← h]

/-- No request, no change. -/
theorem afterRequests_zero {T : Nat} {m : Simulator} (hm : m.counts T) : afterRequests T 0 m = m := by
  cases hbusy : m.busyf
  · exact afterRequests_idle 0 hm hbusy
  · have hlt := hm.1 hbusy
    rw [afterRequests_of_lt (by rw [busyRequestsLeft_busy hbusy]; omega), Nat.add_zero, BitVec.ofNat_toNat,
      BitVec.setWidth_eq]

/-- A request that meets a busy simulator counts one (R182). -/
theorem busyStep_eq_afterRequests {T : Nat} {m : Simulator} (hbusy : m.busyf = true) (hlt : m.bcnt.toNat < T) :
    busyStep T m = (plainAnswer .notAcknowledged, afterRequests T 1 m) := by
  have hleft := busyRequestsLeft_busy (T := T) hbusy
  by_cases hlast : T ≤ m.bcnt.toNat + 1
  · rw [busyStep, if_pos hlast, afterRequests_of_le (by omega)]
  · have hbcnt : BitVec.ofNat 16 (m.bcnt.toNat + 1) = m.bcnt + 1#16 := by
      rw [BitVec.ofNat_add, BitVec.ofNat_toNat, BitVec.setWidth_eq]
    rw [busyStep, if_neg hlast, afterRequests_of_lt (by omega), hbcnt]

/-- The counter, while it does not overflow, after one more request. -/
theorem busyRequestsLeft_afterRequests_one {T : Nat} {m : Simulator} (hm : m.counts T) (hbusy : m.busyf = true)
    (hfit : m.bcnt.toNat + 1 < 65536 ∨ T ≤ 65536) :
    busyRequestsLeft T (afterRequests T 1 m) = busyRequestsLeft T m - 1 := by
  have hleft := busyRequestsLeft_busy (T := T) hbusy
  have hlt := hm.1 hbusy
  by_cases hlast : busyRequestsLeft T m ≤ 1
  · rw [afterRequests_of_le hlast, busyRequestsLeft_idle rfl]; omega
  · have hnat : (BitVec.ofNat 16 (m.bcnt.toNat + 1)).toNat = m.bcnt.toNat + 1 := by
      rw [BitVec.toNat_ofNat]; omega
    rw [afterRequests_of_lt (by omega), busyRequestsLeft_busy (by exact hbusy), hnat]
    omega

theorem bcnt_afterRequests_one_le (T : Nat) (m : Simulator) : (afterRequests T 1 m).bcnt.toNat ≤ m.bcnt.toNat + 1 := by
  unfold afterRequests
  split
  · exact (BitVec.toNat_ofNat ..).trans_le (Nat.mod_le ..)
  · exact Nat.zero_le _

theorem counts_afterRequests_one {T : Nat} {m : Simulator} (hm : m.counts T) (hbusy : m.busyf = true) :
    (afterRequests T 1 m).counts T := by
  have hleft := busyRequestsLeft_busy (T := T) hbusy
  have hlt := hm.1 hbusy
  by_cases hlast : busyRequestsLeft T m ≤ 1
  · rw [afterRequests_of_le hlast]; exact ⟨by simp, fun _ => rfl⟩
  · rw [afterRequests_of_lt (by omega)]
    have hle := bcnt_afterRequests_one_le T m
    rw [afterRequests_of_lt (by omega)] at hle
    exact ⟨fun _ => hle.trans_lt (by omega), by simp [hbusy]⟩

theorem afterRequests_afterRequests_one {T k : Nat} {m : Simulator} (hm : m.counts T) (hbusy : m.busyf = true)
    (hfit : m.bcnt.toNat + 1 < 65536 ∨ T ≤ 65536) :
    afterRequests T k (afterRequests T 1 m) = afterRequests T (k + 1) m := by
  have hleft := busyRequestsLeft_afterRequests_one hm hbusy hfit
  have hpos : 0 < busyRequestsLeft T m := by
    have := hm.1 hbusy
    rw [busyRequestsLeft_busy hbusy]; omega
  by_cases hk : k + 1 < busyRequestsLeft T m
  · rw [afterRequests_of_lt (m := afterRequests T 1 m) (by omega), afterRequests_of_lt hk,
      afterRequests_of_lt (n := 1) (by omega)]
    have hnat : (BitVec.ofNat 16 (m.bcnt.toNat + 1)).toNat = m.bcnt.toNat + 1 := by
      have := busyRequestsLeft_busy (T := T) hbusy
      rw [BitVec.toNat_ofNat]; omega
    simp only [hnat, Nat.add_assoc, Nat.add_comm 1 k]
  · rw [afterRequests_of_le (m := afterRequests T 1 m) (by omega), afterRequests_of_le (n := k + 1) (by omega)]
    by_cases h1 : 1 < busyRequestsLeft T m
    · rw [afterRequests_of_lt h1]
    · rw [afterRequests_of_le (by omega)]

/-- Any request that meets the simulator busy. -/
theorem answerOf_busy {p : Params} {d : Device} (q : BusRequest) (hdev : p.device = .simulator)
    (hbusy : d.sim.busyf = true) (hlt : d.sim.bcnt.toNat < p.threshold) :
    answerOf p q d
      = some (plainAnswer .notAcknowledged, { d with sim := afterRequests p.threshold 1 d.sim }) := by
  rw [answerOf_simulator d q hdev, onBus_busy _ q hbusy, busyStep_eq_afterRequests hbusy hlt]

/-! The poll loop against the simulator (R197). -/

/-- The statuses of at most `k` probes of a simulator with `n` busy requests left. -/
def simStatuses (n k : Nat) : List BusStatus :=
  List.replicate (min n k) .notAcknowledged ++ if n < k then [.ok] else []

theorem simStatuses_cons {n k : Nat} (h : 0 < n) :
    .notAcknowledged :: simStatuses (n - 1) k = simStatuses n (k + 1) := by
  obtain ⟨n, rfl⟩ := Nat.exists_eq_add_one_of_ne_zero h.ne'
  simp [simStatuses, List.replicate_succ]

theorem simStatuses_length (n k : Nat) : (simStatuses n k).length = min (n + 1) k := by
  rw [simStatuses, List.length_append, List.length_replicate]
  split <;> simp <;> omega

theorem simStatuses_getLast? {n k : Nat} (hk : 0 < k) :
    (simStatuses n k).getLast? = some (if k ≤ n then .notAcknowledged else .ok) := by
  by_cases h : n < k
  · simp [simStatuses, h]
  · simp [simStatuses, h, List.getLast?_replicate, Nat.min_eq_right (Nat.le_of_not_lt h), hk.ne']

/-- The trace of a poll loop against the simulator: each probe counts one busy request, and the first that finds it idle is
Ok. The bound keeps BCNT from overflowing. -/
theorem pollTrace_simulator {p : Params} (hdev : p.device = .simulator) (k : Nat) :
    ∀ d : Device, d.sim.counts p.threshold → (d.sim.bcnt.toNat + k < 65536 ∨ p.threshold ≤ 65536) →
      pollTrace p k d = (simStatuses (busyRequestsLeft p.threshold d.sim) k,
        { d with sim := afterRequests p.threshold k d.sim }) := by
  induction k with
  | zero =>
    intro d hd _
    simp [pollTrace, simStatuses, afterRequests_zero hd]
  | succ k ih =>
    intro d hd hfit
    cases hbusy : d.sim.busyf
    · have hprobe : onBus p.threshold (probe p) d.sim = (plainAnswer .ok, d.sim) := handleWrite_idle_nil hbusy
      rw [pollTrace, answerOf_simulator d _ hdev, hprobe, afterRequests_idle _ hd hbusy, busyRequestsLeft_idle hbusy]
      simp [plainAnswer, simStatuses]
    · have hfit1 : d.sim.bcnt.toNat + 1 < 65536 ∨ p.threshold ≤ 65536 := by omega
      have hlt := hd.1 hbusy
      have hle := bcnt_afterRequests_one_le p.threshold d.sim
      have htail := ih { d with sim := afterRequests p.threshold 1 d.sim } (counts_afterRequests_one hd hbusy)
        (hfit.imp (fun h => by show (afterRequests p.threshold 1 d.sim).bcnt.toNat + k < 65536; omega) id)
      have hpos : 0 < busyRequestsLeft p.threshold d.sim := by rw [busyRequestsLeft_busy hbusy]; omega
      rw [pollTrace, answerOf_busy _ hdev hbusy hlt]
      simp only [plainAnswer, reduceCtorEq, if_false, htail, busyRequestsLeft_afterRequests_one hd hbusy hfit1,
        simStatuses_cons hpos, afterRequests_afterRequests_one hd hbusy hfit1]

theorem polledStatus_simStatuses (n : Nat) :
    polledStatus (simStatuses n Config.maxAttempts)
      = doneStatus true (decide (100 ≤ n)) .noError (if 100 ≤ n then .notAcknowledged else .ok) := by
  rw [polledStatus, simStatuses_getLast? (by decide), maxAttempts_eq]
  by_cases h : 100 ≤ n <;> simp [h]

theorem probeTraffic_simStatuses (p : Params) (n : Nat) :
    probeTraffic p (simStatuses n Config.maxAttempts) = pollTrafficOfSimulator p.devAddr n := by
  rw [probeTraffic, simStatuses, pollTrafficOfSimulator, List.map_append, List.map_replicate]
  split <;> rfl

/-- Settles O34: the loop's trace against the simulator, put into the state WAIT_COMPLETE leaves. -/
theorem waitCompleteOnTheSimulator : Obligations.WaitCompleteOnTheSimulator := by
  intro s addr arg hbusy hdev hlegal hgood
  have htrace := pollTrace_simulator hdev Config.maxAttempts (deviceOf s) hgood.counts (.inr (by have := hlegal.2; omega))
  have hexec := exec_waitComplete_answered hbusy addr arg (by rw [hdev]; exact DeviceKind.noConfusion) htrace
  rw [simStatuses_length, polledStatus_simStatuses, probeTraffic_simStatuses] at hexec
  exact hexec

/-! LOG_DATA and READ_DATA against an idle simulator (R186, R187). -/

@[simp] theorem writeAddress_logPayload (a c : Half) : writeAddress (logPayload a c).bytes = a.toNat :=
  congrArg BitVec.toNat (joinBytes_hi_lo a)

@[simp] theorem writeAddress_readPayload (a : Half) : writeAddress (readPayload a) = a.toNat :=
  congrArg BitVec.toNat (joinBytes_hi_lo a)

@[simp] theorem writeData_logPayload (a c : Half) : writeData (logPayload a c).bytes = [hiByte c, loByte c] := rfl

theorem toNat_le_of_acceptedAddress {a : Half} (h : acceptedAddress a) : a.toNat ≤ 32766 := by
  unfold acceptedAddress at h; omega

/-- The simulator after it stored a logged sample. -/
def storedSample (a c : Half) (m : Simulator) : Simulator :=
  { m with mem := m.mem.writeBytes a.toNat [hiByte c, loByte c], busyf := true, bcnt := 0#16 }

theorem answerOf_dataWrite_idle {p : Params} {d : Device} {a : Half} (c : Half) (hdev : p.device = .simulator)
    (hidle : d.sim.busyf = false) (ha : a.toNat ≤ 32766) :
    answerOf p (dataWriteRequest p.devAddr a c) d = some (plainAnswer .ok, { d with sim := storedSample a c d.sim }) := by
  have hwrite : onBus p.threshold (dataWriteRequest p.devAddr a c) d.sim = (plainAnswer .ok, storedSample a c d.sim) := by
    refine (handleWrite_idle_stored hidle (tx := (logPayload a c).bytes) (Nat.le_succ 3) ?_).trans ?_
    · rw [writeAddress_logPayload, writeData_logPayload, capacity_eq]
      simp only [List.length_cons, List.length_nil]; omega
    · rw [writeAddress_logPayload, writeData_logPayload]; rfl
  rw [answerOf_simulator d _ hdev, hwrite]

/-- Settles O30: the data write starts a busy period of `T`, and the loop's trace counts it down. -/
theorem logDataOnAnIdleSimulator : Obligations.LogDataOnAnIdleSimulator := by
  intro s a f hbusy ha hdev hidle hT
  have hr := answerOf_dataWrite_idle (d := deviceOf s) (enc f) hdev hidle (toNat_le_of_acceptedAddress ha)
  have hleft : busyRequestsLeft s.params.threshold (storedSample a (enc f) s.sim) = s.params.threshold := rfl
  have htrace := pollTrace_simulator hdev Config.maxAttempts { deviceOf s with sim := storedSample a (enc f) s.sim }
    ⟨fun _ => hT, fun h => Bool.noConfusion h⟩ (.inl (show 0 + 100 < 65536 by decide))
  have hexec := exec_logData_written hbusy ha hr rfl htrace
  rw [simStatuses_length, polledStatus_simStatuses, probeTraffic_simStatuses, hleft] at hexec
  have hsim : afterRequests s.params.threshold 100 (storedSample a (enc f) s.sim)
      = { s.sim with
          mem := s.sim.mem.writeBytes a.toNat [hiByte (enc f), loByte (enc f)]
          busyf := decide (101 ≤ s.params.threshold)
          bcnt := if 101 ≤ s.params.threshold then 100#16 else 0#16 } := by
    by_cases h : 101 ≤ s.params.threshold
    · rw [afterRequests_of_lt (by omega), decide_eq_true h, if_pos h]; rfl
    · rw [afterRequests_of_le (by omega), decide_eq_false h, if_neg h]; rfl
  rw [← hsim]
  exact hexec

theorem answerOf_readBack_idle {p : Params} {d : Device} {a : Half} (hdev : p.device = .simulator)
    (hidle : d.sim.busyf = false) (ha : a.toNat ≤ 32766) :
    answerOf p (readBackRequest p.devAddr a) d
      = some (⟨.ok, [d.sim.mem.read a.toNat, d.sim.mem.read (a.toNat + 1)]⟩, { d with sim := { d.sim with ptr := a } }) := by
  have hread : onBus p.threshold (readBackRequest p.devAddr a) d.sim
      = (⟨.ok, [d.sim.mem.read a.toNat, d.sim.mem.read (a.toNat + 1)]⟩, { d.sim with ptr := a }) := by
    refine (handleWriteRead_idle_address hidle (tx := readPayload a) rfl).trans ?_
    rw [writeAddress_readPayload, BitVec.ofNat_toNat, BitVec.setWidth_eq]
    exact idleRead_inside (by rw [capacity_eq]; show a.toNat + 2 ≤ 32768; omega)
  rw [answerOf_simulator d _ hdev, hread]

/-- Settles O33: the simulator's answer to the read-back, idle and busy. -/
theorem readDataOnTheSimulator : Obligations.ReadDataOnTheSimulator := by
  intro s a arg hbusy ha hdev
  refine ⟨fun hidle => ?_, fun hsim hlt => ?_⟩
  · exact exec_readData_ok hbusy ha (answerOf_readBack_idle hdev hidle ha)
  · exact exec_readData_failed hbusy ha (answerOf_busy _ hdev hsim hlt) BusStatus.noConfusion

/-- The code in the slot at an address (R63). -/
def slotCode (m : Memory) (a : Half) : Half := joinBytes (m.read a.toNat) (m.read (a.toNat + 1))

/-- What O33 says of READ_DATA's registers on an idle simulator. -/
theorem exec_readData_idle {s : State} {a : Half} (arg : Word) (hbusy : s.host.status.busy = false)
    (ha : a.toNat ≤ 32766) (hdev : s.params.device = .simulator) (hidle : s.sim.busyf = false) :
    ∃ u, exec (.readData a arg) s = .next u ∧ u.host.status.ok = true ∧ u.host.result = dec (slotCode s.sim.mem a)
      ∧ u.host.raw = slotCode s.sim.mem a :=
  ⟨_, (readDataOnTheSimulator s a arg hbusy ha hdev).1 hidle, rfl, rfl, rfl⟩

theorem slotCode_writeBytes_same {m : Memory} (a c : Half) (hm : m.wf) :
    slotCode (m.writeBytes a.toNat [hiByte c, loByte c]) a = c := by
  have hread {k : Nat} (hk : k < 2) :=
    Memory.read_writeBytes_inside a.toNat (vs := [hiByte c, loByte c]) hm (k := k) hk 0#8
  exact (congrArg₂ joinBytes (hread (k := 0) (by decide)) (hread (k := 1) (by decide))).trans (joinBytes_hi_lo c)

theorem slotCode_writeBytes_disjoint {m : Memory} {a b : Half} (c : Half)
    (h : b.toNat + 2 ≤ a.toNat ∨ a.toNat + 2 ≤ b.toNat) :
    slotCode (m.writeBytes a.toNat [hiByte c, loByte c]) b = slotCode m b := by
  rw [slotCode, slotCode, Memory.read_writeBytes_outside (by simp only [List.length_cons, List.length_nil]; omega),
    Memory.read_writeBytes_outside (by simp only [List.length_cons, List.length_nil]; omega)]

/-- Settles O42: with `T` below 100 the wait of LOG_DATA outlasts the busy period, so the simulator is idle again and
READ_DATA reads the memory that the sample was stored to. -/
theorem loggedSampleReadsBack : Obligations.LoggedSampleReadsBack := by
  intro s a f arg hbusy ha hdev hidle hwf hT hT99
  have hlog := logDataOnAnIdleSimulator s a f hbusy ha hdev hidle hT
  generalize ht : finishedState _ _ _ _ _ _ _ _ _ _ _ _ = t at hlog
  have hbusy' : t.host.status.busy = false := by rw [← ht]; rfl
  have hdev' : t.params.device = .simulator := by rw [← ht]; exact hdev
  have hidle' : t.sim.busyf = false := by rw [← ht]; exact decide_eq_false (by omega)
  have hmem : t.sim.mem = s.sim.mem.writeBytes a.toNat [hiByte (enc f), loByte (enc f)] := by rw [← ht]; rfl
  obtain ⟨u, hu, hok, hresult, hraw⟩ :=
    exec_readData_idle arg hbusy' (toNat_le_of_acceptedAddress ha) hdev' hidle'
  rw [hmem, slotCode_writeBytes_same a (enc f) hwf] at hresult hraw
  refine ⟨t, u, hlog, hu, hok, hresult, hraw, fun b hb hdisjoint => ?_⟩
  obtain ⟨before, hbefore, -, hresult₁, hraw₁⟩ := exec_readData_idle arg hbusy hb hdev hidle
  obtain ⟨after, hafter, hok₂, hresult₂, hraw₂⟩ := exec_readData_idle arg hbusy' hb hdev' hidle'
  rw [hmem, slotCode_writeBytes_disjoint _ hdisjoint] at hresult₂ hraw₂
  exact ⟨before, after, hbefore, hafter, hresult₂.trans hresult₁.symm, hraw₂.trans hraw₁.symm, hok₂⟩

end Sys2Proof.Machine

namespace Sys2Proof.Machine

/-! What a host command may change of the device (R71, R186). -/

/-- Of the device, the instruction `i` changes only the agent on the bus; of the simulator's bytes only the two that LOG_DATA
stores to; and PTR only under READ_DATA. -/
structure DeviceFrame (i : Instr) (p : Params) (d d' : Device) : Prop where
  sim : p.device ≠ .simulator → d'.sim = d.sim
  answers : p.device ≠ .real → d'.oracle = d.oracle ∧ d'.draws = d.draws
  bytes : ∀ x : Nat, (∀ a f, i = .logData a f →
    x ≠ writeAddress (logPayload a (enc f)).bytes ∧ x ≠ writeAddress (logPayload a (enc f)).bytes + 1) →
    d'.sim.mem.read x = d.sim.mem.read x
  ptr : (∀ a f, i ≠ .readData a f) → d'.sim.ptr = d.sim.ptr

theorem DeviceFrame.refl (i : Instr) (p : Params) (d : Device) : DeviceFrame i p d d :=
  ⟨fun _ => rfl, fun _ => ⟨rfl, rfl⟩, fun _ _ => rfl, fun _ => rfl⟩

theorem DeviceFrame.trans {i : Instr} {p : Params} {d₁ d₂ d₃ : Device} (h : DeviceFrame i p d₁ d₂)
    (k : DeviceFrame i p d₂ d₃) : DeviceFrame i p d₁ d₃ where
  sim hdev := (k.sim hdev).trans (h.sim hdev)
  answers hdev := ⟨(k.answers hdev).1.trans (h.answers hdev).1, (k.answers hdev).2.trans (h.answers hdev).2⟩
  bytes x hx := (k.bytes x hx).trans (h.bytes x hx)
  ptr hi := (k.ptr hi).trans (h.ptr hi)

/-- A probe has no byte, so any instruction may issue it. -/
theorem probe_frame (i : Instr) {p : Params} {d d' : Device} {r : BusResponse}
    (h : answerOf p (probe p) d = some (r, d')) : DeviceFrame i p d d' := by
  obtain ⟨hsim, hanswers, hptr, hbytes⟩ := answerOf_frame h
  exact ⟨hsim, hanswers, fun x _ => hbytes x (.inl (by simp [probe, writeData])), fun _ => hptr (.inr (by simp [probe]))⟩

theorem dataWrite_frame {a : Half} {f : Word} {p : Params} {d d' : Device} {r : BusResponse}
    (h : answerOf p (dataWriteRequest p.devAddr a (enc f)) d = some (r, d')) : DeviceFrame (.logData a f) p d d' := by
  obtain ⟨hsim, hanswers, hptr, hbytes⟩ := answerOf_frame h
  refine ⟨hsim, hanswers, fun x hx => hbytes x (.inl ?_), fun _ => hptr (.inr (by simp [dataWriteRequest, TxBuffer.bytes]))⟩
  obtain ⟨h0, h1⟩ := hx a f rfl
  simp only [dataWriteRequest, writeData_logPayload, List.length_cons, List.length_nil]
  omega

theorem readBack_frame {a : Half} {arg : Word} {p : Params} {d d' : Device} {r : BusResponse}
    (h : answerOf p (readBackRequest p.devAddr a) d = some (r, d')) : DeviceFrame (.readData a arg) p d d' := by
  obtain ⟨hsim, hanswers, -, hbytes⟩ := answerOf_frame h
  refine ⟨hsim, hanswers, fun x _ => hbytes x (.inl ?_), fun hi => absurd rfl (hi a arg)⟩
  simp [readBackRequest, readPayload, writeData]

theorem pollTrace_frame (i : Instr) (p : Params) (n : Nat) (d : Device) : DeviceFrame i p d (pollTrace p n d).2 := by
  induction n generalizing d with
  | zero => exact .refl i p d
  | succ n ih =>
    rw [pollTrace]
    cases hanswer : answerOf p (probe p) d with
    | none => exact .refl i p d
    | some x =>
      obtain ⟨r, d1⟩ := x
      have hprobe := probe_frame i hanswer
      dsimp only
      split
      · exact hprobe
      · exact hprobe.trans (ih d1)

/-! The end of a command as a function of the parameters and the device (R33, R156). -/

/-- What a command leaves in the host registers, the latched operands, the traffic and the device. -/
structure CommandEnd where
  op : BitVec 4
  addr : Half
  arg : Word
  status : Status
  result : Word
  raw : Half
  polls : Nat
  traffic : List Transaction
  device : Device

/-- The state it leaves, with what the sequencer keeps besides. -/
def CommandEnd.state (e : CommandEnd) (att : Nat) (tx : TxBuffer) (rx : RxBuffer) (s : State) : State :=
  finishedState (withDevice e.device s) e.op e.addr e.arg e.status e.result e.raw e.polls att tx rx e.traffic

/-- On the parameters `p` and the device `d`, whatever the registers hold, the instruction `i` finishes and leaves `e`. -/
structure EndsIn (i : Instr) (p : Params) (d : Device) (e : CommandEnd) : Prop where
  busy : e.status.busy = false
  done : e.status.done = true
  traffic_le : e.traffic.length ≤ 101
  frame : DeviceFrame i p d e.device
  exec : ∀ s : State, s.params = p → deviceOf s = d → s.host.status.busy = false →
    ∃ att tx rx, Machine.exec i s = .next (e.state att tx rx s)
      ∧ ((∀ a f, i ≠ .readData a f) → rx = s.seqr.rx) ∧ ((∀ a f, i ≠ .logData a f) → tx = s.seqr.tx)

/-- A command that finishes without bus traffic. -/
theorem EndsIn.of_local {i : Instr} {op : BitVec 4} {addr : Half} {arg : Word} {ok : Bool} {err : ErrCause} {v : Word}
    {c : Half} (h : ∀ s : State, s.host.status.busy = false →
      Machine.exec i s = .next (localFinish s op addr arg ok err v c)) (p : Params) (d : Device) :
    EndsIn i p d ⟨op, addr, arg, doneStatus ok false err .ok, v, c, 0, [], d⟩ where
  busy := rfl
  done := rfl
  traffic_le := Nat.zero_le _
  frame := .refl i p d
  exec s _ hd hbusy := ⟨s.seqr.att, s.seqr.tx, s.seqr.rx, by rw [h s hbusy, ← hd]; rfl, fun _ => rfl, fun _ => rfl⟩

section
variable {p : Params} (d : Device) (hdev : p.device ≠ .silent)
include hdev

theorem waitComplete_endsIn (addr : Half) (arg : Word) : ∃ e, EndsIn (.waitComplete addr arg) p d e := by
  rcases htrace : pollTrace p Config.maxAttempts d with ⟨l, d'⟩
  have hpoll := pollTrace_outcome hdev htrace
  have hframe := pollTrace_frame (.waitComplete addr arg) p Config.maxAttempts d
  rw [htrace] at hframe
  refine ⟨⟨5#4, addr, arg, polledStatus l, 0#32, 0#16, l.length, probeTraffic p l, d'⟩, rfl, rfl, ?_, hframe, ?_⟩
  · have := hpoll.length_le
    rw [probeTraffic, List.length_map]; omega
  · rintro s rfl rfl hbusy
    exact ⟨_, _, _, exec_waitComplete_answered hbusy addr arg hdev htrace, fun _ => rfl, fun _ => rfl⟩

theorem logData_endsIn (a : Half) (f : Word) : ∃ e, EndsIn (.logData a f) p d e := by
  by_cases ha : acceptedAddress a
  · obtain ⟨r, d1, hr⟩ := answerOf_isSome d (dataWriteRequest p.devAddr a (enc f)) hdev
    have hwrite := dataWrite_frame hr
    by_cases hok : r.status = .ok
    · rcases htrace : pollTrace p Config.maxAttempts d1 with ⟨l, d2⟩
      have hpoll := pollTrace_outcome hdev htrace
      have hprobes := pollTrace_frame (.logData a f) p Config.maxAttempts d1
      rw [htrace] at hprobes
      refine ⟨⟨3#4, a, f, polledStatus l, 1#32, enc f, l.length,
        ⟨dataWriteRequest p.devAddr a (enc f), .ok⟩ :: probeTraffic p l, d2⟩, rfl, rfl, ?_, hwrite.trans hprobes, ?_⟩
      · have := hpoll.length_le
        rw [List.length_cons, probeTraffic, List.length_map]; omega
      · rintro s rfl rfl hbusy
        exact ⟨_, _, _, exec_logData_written hbusy ha hr hok htrace, fun _ => rfl, fun hi => absurd rfl (hi a f)⟩
    · refine ⟨⟨3#4, a, f, doneStatus false false .bus r.status, 0#32, enc f, 0,
        [⟨dataWriteRequest p.devAddr a (enc f), r.status⟩], d1⟩, rfl, rfl, by simp, hwrite, ?_⟩
      rintro s rfl rfl hbusy
      exact ⟨_, _, _, exec_logData_failed hbusy ha hr hok, fun _ => rfl, fun hi => absurd rfl (hi a f)⟩
  · obtain ⟨err, h⟩ := exec_logData_rejected (a := a) f ha
    exact ⟨_, .of_local h p d⟩

theorem readData_endsIn (a : Half) (arg : Word) : ∃ e, EndsIn (.readData a arg) p d e := by
  by_cases ha : a.toNat ≤ 32766
  · obtain ⟨r, d1, hr⟩ := answerOf_isSome d (readBackRequest p.devAddr a) hdev
    by_cases hok : r.status = .ok
    · obtain ⟨x, y, rfl⟩ := readBack_answer hr hok
      refine ⟨⟨4#4, a, arg, doneStatus true false .noError .ok, dec (joinBytes x y), joinBytes x y, 0,
        [⟨readBackRequest p.devAddr a, .ok⟩], d1⟩, rfl, rfl, by simp, readBack_frame hr, ?_⟩
      rintro s rfl rfl hbusy
      exact ⟨_, _, _, exec_readData_ok hbusy ha hr, fun hi => absurd rfl (hi a arg), fun _ => rfl⟩
    · refine ⟨⟨4#4, a, arg, doneStatus false false .bus r.status, Config.sentinel, 0#16, 0,
        [⟨readBackRequest p.devAddr a, r.status⟩], d1⟩, rfl, rfl, by simp, readBack_frame hr, ?_⟩
      rintro s rfl rfl hbusy
      exact ⟨_, _, _, exec_readData_failed hbusy ha hr hok, fun hi => absurd rfl (hi a arg), fun _ => rfl⟩
  · exact ⟨_, .of_local (fun s hbusy => exec_readData_beyond arg hbusy ha) p d⟩

/-- On a device that answers, every command ends, and its end depends on the parameters and the device alone. -/
theorem command_endsIn {i : Instr} (hi : i.isCommand) : ∃ e, EndsIn i p d e := by
  obtain ⟨arg', cmd, henc⟩ := hi
  cases i with
  | encodeTemp addr arg => exact ⟨_, .of_local (fun s => encodeFinishesWithTheCode s addr arg) p d⟩
  | decodeCode addr arg => exact ⟨_, .of_local (fun s => decodeFinishesWithTheTemperature s addr arg) p d⟩
  | logData a f => exact logData_endsIn d hdev a f
  | readData a arg => exact readData_endsIn d hdev a arg
  | waitComplete addr arg => exact waitComplete_endsIn d hdev addr arg
  | _ => cases henc

end

/-- Settles O38: every command has an end, and all ends are finished ones. -/
theorem everyCommandFinishes : Obligations.EveryCommandFinishes := by
  intro i s hi hbusy hdev
  obtain ⟨e, he⟩ := command_endsIn (deviceOf s) hdev hi
  obtain ⟨att, tx, rx, hexec, -, -⟩ := he.exec s rfl rfl hbusy
  exact ⟨_, hexec, rfl, he.busy, he.done, he.traffic_le⟩

/-- Settles O43: the end a command has on the common parameters and device is reached from both states. -/
theorem commandsForgetEarlierRegisters : Obligations.CommandsForgetEarlierRegisters := by
  intro i s1 s2 hi hbusy1 hbusy2 hparams hdev hsim horacle hdraws
  have hdevice : deviceOf s2 = deviceOf s1 := by rw [deviceOf, deviceOf, hsim, horacle, hdraws]
  obtain ⟨e, he⟩ := command_endsIn (deviceOf s1) hdev hi
  obtain ⟨att1, tx1, rx1, hexec1, -, -⟩ := he.exec s1 rfl rfl hbusy1
  obtain ⟨att2, tx2, rx2, hexec2, -, -⟩ := he.exec s2 hparams.symm hdevice hbusy2
  exact ⟨_, _, hexec1, hexec2, rfl, rfl, rfl, rfl, rfl⟩

/-! A device that never answers (I17, log 8). -/

theorem runCommand_waits {s : State} {arg cmd : Word} (hbusy : s.host.status.busy = false)
    (hstay : seqStep (issued arg cmd s) = issued arg cmd s) : runCommand arg cmd s = issued arg cmd s := by
  rw [runCommand_idle arg cmd hbusy, runSeq_stuck _ hstay]

section
variable {s : State} (hdev : s.params.device = .silent)
include hdev

theorem seqStep_waitComplete_silent (addr : Half) (arg : Word) :
    seqStep (issued arg (commandWord addr 5#4) s) = issued arg (commandWord addr 5#4) s := by
  have hseq : (issued arg (commandWord addr 5#4) s).seqr.seq = .waitPoll .first := by
    simp [issued, decodeH_commandWord_5, startOf]
  simp only [seqStep, hseq, pollStep]
  exact probeStep_none (answerOf_silent _ _ hdev)

theorem seqStep_readData_silent {a : Half} (arg : Word) (ha : a.toNat ≤ 32766) :
    seqStep (issued arg (commandWord a 4#4) s) = issued arg (commandWord a 4#4) s := by
  rw [seqStep_issued_readData]
  exact readDataStep_none (by rw [addrOperand_issued]; exact (readOk_iff a).mpr ha) (answerOf_silent _ _ hdev)

theorem seqStep_logData_silent {a : Half} (f : Word) (ha : acceptedAddress a) :
    seqStep (issued f (commandWord a 3#4) s) = issued f (commandWord a 3#4) s := by
  obtain ⟨hcap, hpage⟩ := (capOk_and_pageOk_iff a).mpr ha
  rw [seqStep_issued_logData]
  exact logDataStep_none (by rw [addrOperand_issued]; exact hcap) (by rw [addrOperand_issued]; exact hpage)
    (answerOf_silent _ _ hdev)

end

/-- The commands that need the device, at an address they accept. -/
def needsDevice (addr : Half) (arg : Word) (i : Instr) : Prop :=
  i = .waitComplete addr arg ∨ (i = .readData addr arg ∧ addr.toNat ≤ 32766)
    ∨ (i = .logData addr arg ∧ acceptedAddress addr)

/-- The commands that finish without the device. -/
def needsNoDevice (addr : Half) (arg : Word) (i : Instr) : Prop :=
  i = .encodeTemp addr arg ∨ i = .decodeCode addr arg ∨ (i = .readData addr arg ∧ 32767 ≤ addr.toNat)
    ∨ (i = .logData addr arg ∧ ¬ acceptedAddress addr)

theorem needsDevice_or_not {i : Instr} (hi : i.isCommand) :
    ∃ addr arg, needsDevice addr arg i ∨ needsNoDevice addr arg i := by
  obtain ⟨arg', cmd, henc⟩ := hi
  cases i with
  | encodeTemp addr arg => exact ⟨addr, arg, .inr (.inl rfl)⟩
  | decodeCode addr arg => exact ⟨addr, arg, .inr (.inr (.inl rfl))⟩
  | logData addr arg =>
    refine ⟨addr, arg, (em (acceptedAddress addr)).imp (fun h => .inr (.inr ⟨rfl, h⟩)) fun h => .inr (.inr (.inr ⟨rfl, h⟩))⟩
  | readData addr arg =>
    exact ⟨addr, arg, (le_or_gt addr.toNat 32766).imp (fun h => .inr (.inl ⟨rfl, h⟩)) fun h => .inr (.inr (.inl ⟨rfl, h⟩))⟩
  | waitComplete addr arg => exact ⟨addr, arg, .inl (.inl rfl)⟩
  | _ => cases henc

theorem exec_waits {s : State} {addr : Half} {arg : Word} {i : Instr} (hbusy : s.host.status.busy = false)
    (hdev : s.params.device = .silent) (hi : needsDevice addr arg i) :
    ∃ cmd, exec i s = .next (issued arg cmd s) ∧ seqStep (issued arg cmd s) = issued arg cmd s := by
  have hwaits (cmd : Word) (hstay : seqStep (issued arg cmd s) = issued arg cmd s) :
      ∃ cmd', Host.Outcome.next (φ := Fault) (ρ := Refusal) (runCommand arg cmd s) = .next (issued arg cmd' s)
        ∧ seqStep (issued arg cmd' s) = issued arg cmd' s :=
    ⟨cmd, congrArg _ (runCommand_waits hbusy hstay), hstay⟩
  rcases hi with rfl | ⟨rfl, ha⟩ | ⟨rfl, ha⟩
  · exact hwaits _ (seqStep_waitComplete_silent hdev addr arg)
  · exact hwaits _ (seqStep_readData_silent hdev arg ha)
  · exact hwaits _ (seqStep_logData_silent hdev arg ha)

theorem exec_needsNoDevice {s : State} {addr : Half} {arg : Word} {i : Instr} (hbusy : s.host.status.busy = false)
    (hi : needsNoDevice addr arg i) :
    ∃ op ok err v c, exec i s = .next (localFinish s op addr arg ok err v c) := by
  rcases hi with rfl | rfl | ⟨rfl, ha⟩ | ⟨rfl, ha⟩
  · exact ⟨_, _, _, _, _, encodeFinishesWithTheCode s addr arg hbusy⟩
  · exact ⟨_, _, _, _, _, decodeFinishesWithTheTemperature s addr arg hbusy⟩
  · exact ⟨_, _, _, _, _, exec_readData_beyond arg hbusy (by omega)⟩
  · obtain ⟨err, h⟩ := exec_logData_rejected (a := addr) arg ha
    exact ⟨_, _, _, _, _, h s hbusy⟩

/-- Settles O40: the first transaction of a command is a step that a silent device leaves undone, and the other commands take
none. -/
theorem silentDeviceKeepsTheCommandWaiting : Obligations.SilentDeviceKeepsTheCommandWaiting := by
  refine fun s addr arg hbusy hdev => ⟨fun i hi => ?_, fun i hi => ?_⟩
  · obtain ⟨cmd, hexec, hstay⟩ := exec_waits hbusy hdev hi
    exact ⟨_, hexec, rfl, rfl, issued_seq_ne_idle arg cmd s, hstay, rfl, rfl, rfl, rfl⟩
  · obtain ⟨op, ok, err, v, c, hexec⟩ := exec_needsNoDevice hbusy hi
    exact ⟨_, hexec, rfl, rfl, rfl, rfl, rfl⟩

/-! The frame of the host commands. -/

/-- What a host command may change of the device and of the transfer buffers. -/
structure CommandFrame (i : Instr) (s t : State) : Prop where
  device : DeviceFrame i s.params (deviceOf s) (deviceOf t)
  rx : (∀ a f, i ≠ .readData a f) → t.seqr.rx = s.seqr.rx
  tx : (∀ a f, i ≠ .logData a f) → t.seqr.tx = s.seqr.tx

/-- A state with the same device and buffers. -/
theorem CommandFrame.of_same {i : Instr} {s t : State} (hdevice : deviceOf t = deviceOf s) (hrx : t.seqr.rx = s.seqr.rx)
    (htx : t.seqr.tx = s.seqr.tx) : CommandFrame i s t :=
  ⟨hdevice ▸ .refl i s.params _, fun _ => hrx, fun _ => htx⟩

theorem exec_commandFrame {i : Instr} (s : State) (hi : i.isCommand) : ∃ t, exec i s = .next t ∧ CommandFrame i s t := by
  cases hbusy : s.host.status.busy
  · by_cases hdev : s.params.device = .silent
    · obtain ⟨addr, arg, hneeds | hneeds⟩ := needsDevice_or_not hi
      · obtain ⟨cmd, hexec, -⟩ := exec_waits hbusy hdev hneeds
        exact ⟨_, hexec, .of_same rfl rfl rfl⟩
      · obtain ⟨op, ok, err, v, c, hexec⟩ := exec_needsNoDevice hbusy hneeds
        exact ⟨_, hexec, .of_same rfl rfl rfl⟩
    · obtain ⟨e, he⟩ := command_endsIn (deviceOf s) hdev hi
      obtain ⟨att, tx, rx, hexec, hrx, htx⟩ := he.exec s rfl rfl hbusy
      exact ⟨_, hexec, he.frame, hrx, htx⟩
  · obtain ⟨arg, cmd, henc⟩ := hi
    exact ⟨_, commandWhileBusyIsDropped i s arg cmd henc hbusy, .of_same rfl rfl rfl⟩

/-- Settles O41: no step of the sequencer writes the outside, and the device changes only by the command's own requests. -/
theorem hostCommandFrame : Obligations.HostCommandFrame := by
  intro i s hi
  obtain ⟨t, hexec, hframe⟩ := exec_commandFrame s hi
  obtain ⟨arg, cmd, henc⟩ := hi
  have ht : t = runCommand arg cmd s := by
    have := hexec.symm.trans ((exec_of_encode_h henc).2 s)
    cases this; rfl
  obtain ⟨hparams, hinputs, hhostOut, hbusOut, hctlOut⟩ := runCommand_outside arg cmd s
  rw [← ht] at hparams hinputs hhostOut hbusOut hctlOut
  exact ⟨t, hexec, hparams, hinputs, hhostOut, hbusOut, hctlOut, hframe.device.sim, hframe.device.answers,
    hframe.device.bytes, fun hi => ⟨hframe.device.ptr hi, hframe.rx hi⟩, hframe.tx⟩

end Sys2Proof.Machine

namespace Sys2Proof.Machine

/-! A testbench's request on any device (R180): what it leaves, and the simulator after it. -/

theorem busRequest_answers (q : BusRequest) {s : State} (hdev : s.params.device ≠ .real) :
    (busRequest q s).env.oracle = s.env.oracle ∧ (busRequest q s).env.draws = s.env.draws := by
  rcases busRequest_cases q s with ⟨h, -⟩ | ⟨r, d, hanswer, h⟩ <;> rw [h]
  · exact ⟨rfl, rfl⟩
  · exact (answerOf_frame hanswer).2.1 hdev

theorem busRequest_silent (q : BusRequest) {s : State} (hdev : s.params.device = .silent) :
    busRequest q s = answerBus none s := by
  rcases busRequest_cases q s with ⟨h, -⟩ | ⟨r, d, hanswer, -⟩
  · exact h
  · rw [answerOf_silent _ q hdev] at hanswer; cases hanswer

theorem busRequest_sim_of_ne_simulator (q : BusRequest) {s : State} (hdev : s.params.device ≠ .simulator) :
    (busRequest q s).sim = s.sim := by
  rcases busRequest_cases q s with ⟨h, -⟩ | ⟨r, d, hanswer, h⟩ <;> rw [h]
  · rfl
  · exact answerOf_real_sim hdev hanswer

theorem busRequest_sim_of_simulator (q : BusRequest) {s : State} (hdev : s.params.device = .simulator) :
    (busRequest q s).sim = (onBus s.params.threshold q s.sim).2 := by
  rw [busRequest_simulator q hdev]; rfl

/-- What holds of the simulator as it was, and as `onBus` leaves it, holds of it after a request on any device. -/
theorem busRequest_sim_of_onBus {R : Simulator → Prop} (q : BusRequest) (s : State) (hsame : R s.sim)
    (hbus : R (onBus s.params.threshold q s.sim).2) : R (busRequest q s).sim := by
  by_cases hdev : s.params.device = .simulator
  · rw [busRequest_sim_of_simulator q hdev]; exact hbus
  · rw [busRequest_sim_of_ne_simulator q hdev]; exact hsame

theorem busStep_busyPair (T : Nat) (m : Simulator) (h : m.busyf = true) :
    ((busyStep T m).2.busyf, (busyStep T m).2.bcnt) = busyPairAfter T m := by
  unfold busyStep busyPairAfter
  split
  · rfl
  · rw [← h]

/-- Settles O46: a write that is not stored leaves the memory alone, and a stored one is the data bytes in a line. -/
theorem busWriteStoresItsBytesOnly : Obligations.BusWriteStoresItsBytesOnly := by
  intro s dev rx tx
  have hsim {R : Simulator → Prop} (hsame : R s.sim) (hbus : R (handleWrite s.params.threshold tx s.sim).2) :
      R (busRequest ⟨.write, dev, tx, 0⟩ s).sim := busRequest_sim_of_onBus _ s hsame hbus
  refine ⟨_, rfl, fun x hx => ?_, fun k hk hdev hidle hwf hfit => ?_, fun hnot => ?_⟩
  · exact hsim (R := fun m => m.mem.read x = s.sim.mem.read x) rfl ((handleWrite_frame _ tx s.sim).1 x hx)
  · have hlen : 3 ≤ tx.length := by
      rw [writeData, List.length_drop] at hk; omega
    rw [busRequest_sim_of_simulator _ hdev]
    show (handleWrite s.params.threshold tx s.sim).2.mem.read _ = _
    rw [handleWrite_idle_stored hidle hlen hfit]
    exact Memory.read_writeBytes_inside _ hwf hk _
  · by_cases hdev : s.params.device = .simulator
    · refine hsim (R := fun m => m.mem = s.sim.mem) rfl ?_
      refine (handleWrite_mem s.params.threshold tx s.sim).resolve_right ?_
      rintro ⟨hidle, hlen, hfit, -⟩
      rcases hnot with h | h | h | h
      · omega
      · exact h hdev
      · rw [hidle] at h; cases h
      · omega
    · rw [busRequest_sim_of_ne_simulator _ hdev]

/-- The request of each of the three instructions; a BUS_READ sends no byte. -/
theorem exec_busInstr {dev : BitVec 7} {x n : Byte} {tx : List Byte} {i : Instr}
    (hi : i = .busWrite dev x tx ∨ i = .busRead dev x n ∨ i = .busWriteRead dev tx n) (s : State) :
    ∃ q : BusRequest, exec i s = .next (busRequest q s)
      ∧ (i = .busWrite dev x tx → q.kind = .write) ∧ (i = .busRead dev x n → q.kind = .read)
      ∧ (i = .busWriteRead dev tx n → q.kind = .writeRead) ∧ (q.kind = .read ∨ q.tx = tx) := by
  rcases hi with rfl | rfl | rfl
  · exact ⟨⟨.write, dev, tx, 0⟩, rfl, fun _ => rfl, Instr.noConfusion, Instr.noConfusion, .inr rfl⟩
  · exact ⟨⟨.read, dev, [], n.toNat⟩, rfl, Instr.noConfusion, fun _ => rfl, Instr.noConfusion, .inl rfl⟩
  · exact ⟨⟨.writeRead, dev, tx, n.toNat⟩, rfl, Instr.noConfusion, Instr.noConfusion, fun _ => rfl, .inr rfl⟩

/-- Settles O49: the block takes no part in a request, and the simulator changes as the laws of `onBus` say. -/
theorem busRequestFrame : Obligations.BusRequestFrame := by
  intro s dev x n tx i hi
  obtain ⟨q, hexec, hwrite, hread, hwriteRead, htx⟩ := exec_busInstr hi s
  obtain ⟨hhost, hseqr, hparams, hinputs, htraffic, hhostOut, hctlOut⟩ := busRequest_frame q s
  obtain ⟨hbytes, hmem, hptr⟩ := onBus_frame s.params.threshold q s.sim
  refine ⟨_, hexec, hhost, hseqr, hparams, hinputs, htraffic, hhostOut, hctlOut, busRequest_sim_of_ne_simulator q,
    busRequest_answers q, fun hdev => by rw [busRequest_silent q hdev]; rfl, fun h => ?_, fun hlen => ?_,
    fun hdev hbusy => ?_, fun hdev hidle hstores => ⟨fun h => ?_, fun h => ?_⟩, fun hidle hnot => ?_, fun a ha => ?_⟩
  · exact busRequest_sim_of_onBus (R := fun m => m.mem = s.sim.mem ∧ m.ptr = s.sim.ptr) q s ⟨rfl, rfl⟩
      ⟨hmem (hread h), hptr (.inl (hread h))⟩
  · exact busRequest_sim_of_onBus (R := fun m => m.ptr = s.sim.ptr) q s rfl (hptr (htx.imp id fun h => by rwa [h]))
  · rw [busRequest_sim_of_simulator q hdev, onBus_busy _ q hbusy]
    exact busStep_busyPair _ _ hbusy
  · have hq : q.tx = tx := htx.resolve_left (by rw [hwrite h]; exact BusKind.noConfusion)
    rw [busRequest_sim_of_simulator q hdev]
    exact ((onBus_busyPair_idle _ q hidle).2 (hq ▸ hstores)).1 (hwrite h)
  · have hq : q.tx = tx := htx.resolve_left (by rw [hwriteRead h]; exact BusKind.noConfusion)
    rw [busRequest_sim_of_simulator q hdev]
    exact ((onBus_busyPair_idle _ q hidle).2 (hq ▸ hstores)).2 (hwriteRead h)
  · have hcase : q.kind = .read ∨ ¬ storesData q.tx := by
      rcases hnot with h | h
      · exact .inl (hread h)
      · exact htx.imp id fun hq => by rwa [hq]
    exact busRequest_sim_of_onBus (R := fun m => m.busyf = s.sim.busyf ∧ m.bcnt = s.sim.bcnt) q s ⟨rfl, rfl⟩
      ((onBus_busyPair_idle _ q hidle).1 hcase)
  · have hcase : ¬ (writeAddress q.tx ≤ a ∧ a < writeAddress q.tx + (writeData q.tx).length) ∨ q.kind = .read :=
      htx.symm.imp (fun hq => by rwa [hq]) id
    exact busRequest_sim_of_onBus (R := fun m => m.mem.read a = s.sim.mem.read a) q s rfl (hbytes a hcase)

/-- A list of the asked length is drawn as it stands. -/
theorem drawnData_of_length {fixed : List Byte} {rxlen : Nat} (n : Nat) (h : fixed.length = rxlen) :
    drawnData fixed n rxlen = fixed := by
  subst h
  refine List.ext_getElem (by simp [drawnData]) fun k hk _ => ?_
  rw [drawnData, List.length_map, List.length_range] at hk
  simp [drawnData, List.getD, hk]

theorem busRequest_drawn {s : State} {a : BusResponse} {rest : List BusResponse} (q : BusRequest)
    (hdev : s.params.device = .real) (horacle : s.env.oracle = a :: rest) :
    busRequest q s = { s with env := { s.env with
      oracle := rest, draws := s.env.draws + 1
      busOut := some (shapedAnswer a.status a.data s.env.draws (askedBytes q)) } } := by
  simp only [busRequest, deviceAnswer, hdev, realAnswer, horacle]
  rfl

/-- Settles O51: the next listed answer is used up, cut to the shape of R99. -/
theorem realDeviceAnswersAsDrawn : Obligations.RealDeviceAnswersAsDrawn := by
  intro s dev x n tx a rest i hdev horacle
  refine ⟨?_, fun hi hlen => ?_⟩
  · rintro rfl
    refine congrArg Host.Outcome.next ((busRequest_drawn _ hdev horacle).trans ?_)
    simp [shapedAnswer, askedBytes, drawnData]
  · have hdrawn := drawnData_of_length s.env.draws hlen
    rcases hi with rfl | rfl <;>
      exact congrArg Host.Outcome.next ((busRequest_drawn _ hdev horacle).trans
        (by simp only [shapedAnswer, askedBytes, hdrawn]))

end Sys2Proof.Machine
